-- ==== Sys2Proof/Word.lean ====
section
/-!
DEFINITION. The word types of the UK101 core (00_scope.md R7): 8-bit data and 16-bit addresses.
-/

namespace Sys2Proof

/-- A byte: the data width, the width of A, X, Y, S and P, and the width of a bus access (R7). -/
abbrev Byte := BitVec 8

/-- A 16-bit address: the width of pc and of the address bus (R7). -/
abbrev Addr := BitVec 16

end Sys2Proof
end

