-- ==== Sys2Proof/Machine/Bits.lean ====
section
/-!
DEFINITION. Byte order and bit-field helpers (00_scope.md R9, 20_memory.md R67).
-/

namespace Sys2Proof.Machine

/-- `w[7:0]`. -/
def lowByte (w : Addr) : Byte := w.setWidth 8

/-- `w[15:8]`: the block index of an address (20_memory.md R61), and the high byte of a word. -/
def highByte (w : Addr) : Byte := w.extractLsb' 8 8

/-- `(hi << 8) | lo`. -/
def word (hi lo : Byte) : Addr := hi ++ lo

/-- `zext_16(b)`: a byte as an address in page zero. -/
def zext (b : Byte) : Addr := b.setWidth 16

/-- `sext_16(b)`. -/
def sext (b : Byte) : Addr := b.signExtend 16

end Sys2Proof.Machine
end

