-- ==== Sys2Proof/Config.lean ====
section
/-!
DEFINITION. What a machine's configuration fixes (00_scope.md R8, 92_eei_decisions.md), and the free values: what the
spec leaves to the environment at every use. State carries a `Config`, so a statement about every state is a
statement about every configuration.
-/

namespace Sys2Proof

/-- The kinds of region (10_state.md R38). -/
inductive RegionKind
  | ram
  | rom
  | acia
  | device
deriving DecidableEq, Repr

/-- One registered region (10_state.md R38, 20_memory.md R62). `baseAddr` is a byte address, so that a base that is
not a multiple of 256 can be written down and rejected (R497). The bytes of a RAM or ROM region are not here: they
are the machine's memory. -/
structure Region where
  kind : RegionKind
  baseAddr : Nat
  blockCount : Nat
deriving DecidableEq, Repr

/-- The sample widths of the codec (48_tape_codec.md R400: 8 or 16 bits). -/
inductive BitDepth
  | eight
  | sixteen
deriving DecidableEq, Repr

/-- The encoder's two cycle shapes (R400, R404, R405). -/
inductive Waveform
  | sine
  | hardware
deriving DecidableEq, Repr

/-- The decoder's four phase settings (R410). -/
inductive Phase
  | deg0
  | deg90
  | deg180
  | deg270
deriving DecidableEq, Repr

/-- The named parameters of 00_scope.md R8 that a running machine or a codec session reads. `ramInit` and `romImages`
are arguments of the machine's constructor; `aciaBase` and `aciaBlocks` are the ACIA region of `regionTable`;
`clockMHz` is a host setting and stands in State; `hwWave` is an argument of the encoder. -/
structure Config where
  /-- the regions in registration order; a later one wins per block (20_memory.md R62) -/
  regionTable : List Region
  resetA : Byte
  resetX : Byte
  resetY : Byte
  resetS : Byte
  /-- bit 5 is forced to 1 when it is loaded (10_state.md R43) -/
  resetP : Byte
  opHalt : Byte
  opDebug : Byte
  debugSelectors : List Byte
  /-- timing only (R500) -/
  haltCycles : Nat
  /-- timing only (R500) -/
  debugCycles : Nat
  /-- timing only (47_acia.md R376) -/
  aciaClockHz : Rat
  /-- timing only: the divisor for control bits 1:0 = 11 (R364) -/
  aciaDiv3 : Nat
  aciaRdrInit : Byte
  /-- the spec's value is false (92_eei_decisions.md D21) -/
  quirkStrayRead : Bool
  quirkStrayReadPC : Addr
  sampleRate : Nat
  bitDepth : BitDepth
  channels : Nat
  /-- f, in Hz -/
  markFreq : Rat
  /-- M, tone cycles in a mark bit -/
  markCycles : Nat
  waveform : Waveform
  hwTau : Rat
  leadInSeconds : Rat
  leadOutSeconds : Rat
  phase : Phase
  adaptive : Bool
  inBitDepth : BitDepth
  inChannels : Nat
deriving DecidableEq, Repr

/-- The 105 byte values with no documented instruction (30_encoding.md R105). -/
def undefinedOpcodes : List Byte :=
  [0x02, 0x03, 0x04, 0x07, 0x0B, 0x0C, 0x0F, 0x12, 0x13, 0x14, 0x17, 0x1A, 0x1B, 0x1C, 0x1F,
   0x22, 0x23, 0x27, 0x2B, 0x2F, 0x32, 0x33, 0x34, 0x37, 0x3A, 0x3B, 0x3C, 0x3F] ++
  [0x42, 0x43, 0x44, 0x47, 0x4B, 0x4F, 0x52, 0x53, 0x54, 0x57, 0x5A, 0x5B, 0x5C, 0x5F,
   0x62, 0x63, 0x64, 0x67, 0x6B, 0x6F, 0x72, 0x73, 0x74, 0x77, 0x7A, 0x7B, 0x7C, 0x7F] ++
  [0x80, 0x82, 0x83, 0x87, 0x89, 0x8B, 0x8F, 0x92, 0x93, 0x97, 0x9B, 0x9C, 0x9E, 0x9F,
   0xA3, 0xA7, 0xAB, 0xAF, 0xB2, 0xB3, 0xB7, 0xBB, 0xBF] ++
  [0xC2, 0xC3, 0xC7, 0xCB, 0xCF, 0xD2, 0xD3, 0xD4, 0xD7, 0xDA, 0xDB, 0xDC, 0xDF,
   0xE2, 0xE3, 0xE7, 0xEB, 0xEF, 0xF2, 0xF3, 0xF4, 0xF7, 0xFA, 0xFB, 0xFC, 0xFF]

/-- What R8 and R107 ask of the two simulator opcodes: distinct, and both undefined byte values. -/
abbrev Config.simulatorOpcodesValid (c : Config) : Prop :=
  c.opHalt ∈ undefinedOpcodes ∧ c.opDebug ∈ undefinedOpcodes ∧ c.opHalt ≠ c.opDebug

/-- What 48_tape_codec.md R400 asks of the codec's parameters. -/
abbrev Config.codecValid (c : Config) : Prop :=
  0 < c.sampleRate ∧ 1 ≤ c.channels ∧ 0 < c.markFreq ∧ 2 ≤ c.markCycles ∧ c.markCycles % 2 = 0 ∧
    0 < c.hwTau ∧ 0 ≤ c.leadInSeconds ∧ 0 ≤ c.leadOutSeconds ∧ 1 ≤ c.inChannels

/-- The configuration `State.reset` is built with. DESIGN CHOICE throughout, unsafe for a claim about the run from
reset, without effect on a claim about every state: the spec leaves each value OPEN (log 1; the regions log 6, the
register values log 2, the simulator opcodes log 7, the codec values log 18). -/
def Config.standard : Config where
  regionTable :=
    [⟨.ram, 0x0000, 0x80⟩, ⟨.rom, 0xA000, 0x20⟩, ⟨.device, 0xD000, 4⟩, ⟨.device, 0xDF00, 1⟩,
     ⟨.acia, 0xF000, 1⟩, ⟨.rom, 0xF800, 8⟩]
  resetA := 0x00
  resetX := 0x00
  resetY := 0x00
  resetS := 0x00
  resetP := 0x00
  opHalt := 0x02
  opDebug := 0x12
  debugSelectors := [0x01]
  haltCycles := 0
  debugCycles := 0
  aciaClockHz := 4800
  aciaDiv3 := 1
  aciaRdrInit := 0x00
  quirkStrayRead := false
  quirkStrayReadPC := 0x0000
  sampleRate := 48000
  bitDepth := .eight
  channels := 1
  markFreq := 2400
  markCycles := 8
  waveform := .sine
  hwTau := 1 / 10
  leadInSeconds := 1 / 2
  leadOutSeconds := 1 / 2
  phase := .deg0
  adaptive := false
  inBitDepth := .eight
  inChannels := 1

/-- One step of the ACIA worker (47_acia.md R369). A poll carries the peer's answer, an oracle draw (R372): a byte or
none. -/
inductive WorkerMove
  | txStart
  | txFinish
  | rxPoll (answer : Option Byte)
deriving DecidableEq, Repr

/-- FREE VALUE (log 8, log 9): the worker moves attempted in the `n`-th gap between bus accesses. Nothing constrains
it: the spec admits every interleaving (20_memory.md R78), and a peer may answer anything (47_acia.md R372). -/
opaque Config.workerMoves : Nat → List WorkerMove

/-- FREE VALUE (log 10): the byte an external device returns to a read of an address made when `n` gaps have passed
(20_memory.md R64: "an oracle answer, a draw the host supplies for this access"). -/
opaque Config.deviceByte : Nat → Addr → Byte

end Sys2Proof
end

