-- ==== Sys2Proof/Syntax.lean ====
section
/-!
DEFINITION. The instructions (30_encoding.md R100 to R108): one constructor of `Instr` for each mnemonic of the opcode
table, its operand form as argument. The rows of one mnemonic are the forms of its argument.
-/

namespace Sys2Proof

/-- The forms that resolve to a 16-bit effective address (30_encoding.md R102). -/
inductive Ea
  /-- zero-page -/
  | zp (z : Byte)
  /-- zero-page-X -/
  | zpx (z : Byte)
  /-- zero-page-Y -/
  | zpy (z : Byte)
  /-- absolute -/
  | abs (w : Addr)
  /-- absolute-X -/
  | absx (w : Addr)
  /-- absolute-Y -/
  | absy (w : Addr)
  /-- pre-indexed-indirect-X, (zp,X) -/
  | indx (z : Byte)
  /-- post-indexed-indirect-Y, (zp),Y -/
  | indy (z : Byte)
deriving DecidableEq, Repr

/-- The source of a reading instruction: an immediate byte or a memory byte (41_addressing.md R184). -/
inductive Src
  | imm (b : Byte)
  | mem (m : Ea)
deriving DecidableEq, Repr

/-- The operand of a shift or rotate: the accumulator or a memory byte (41_addressing.md R186). -/
inductive Place
  | acc
  | mem (m : Ea)
deriving DecidableEq, Repr

/-- The two forms of JMP (45_control_flow.md R299). -/
inductive Target
  | abs (w : Addr)
  | ind (w : Addr)
deriving DecidableEq, Repr

/-- The instructions, by mnemonic. -/
inductive Instr
  -- 42_load_store_transfer.md R200 to R211
  | lda (o : Src)
  | ldx (o : Src)
  | ldy (o : Src)
  | sta (m : Ea)
  | stx (m : Ea)
  | sty (m : Ea)
  | tax
  | tay
  | txa
  | tya
  | tsx
  | txs
  -- 43_arith_logic.md R230 to R244
  | adc (o : Src)
  | sbc (o : Src)
  | and (o : Src)
  | ora (o : Src)
  | eor (o : Src)
  | cmp (o : Src)
  | cpx (o : Src)
  | cpy (o : Src)
  | bit (m : Ea)
  | inc (m : Ea)
  | dec (m : Ea)
  | inx
  | iny
  | dex
  | dey
  -- 44_shift_rotate.md R270 to R273
  | asl (d : Place)
  | lsr (d : Place)
  | rol (d : Place)
  | ror (d : Place)
  -- 45_control_flow.md R290 to R303
  | bcc (off : Byte)
  | bcs (off : Byte)
  | beq (off : Byte)
  | bmi (off : Byte)
  | bne (off : Byte)
  | bpl (off : Byte)
  | bvc (off : Byte)
  | bvs (off : Byte)
  | jmp (t : Target)
  | jsr (w : Addr)
  | rts
  | rti
  | brk
  -- 46_stack_flags_misc.md R320 to R334
  | pha
  | php
  | pla
  | plp
  | clc
  | cld
  | cli
  | clv
  | sec
  | sed
  | sei
  | nop
  /-- an undefined opcode; `op` is its byte (R332) -/
  | undef (op : Byte)
  | halt
  | debug (sel : Byte)
deriving DecidableEq, Repr

end Sys2Proof
end

