-- ==== Sys2Proof/WellFormed.lean ====
section
/-!
DEFINITION. Which terms of `Instr` are instructions of a configured machine: the operand form is one the opcode map
gives the mnemonic (30_encoding.md R105), and the byte of an undefined opcode is undefined and not taken by a
simulator opcode (R106, R108).
-/

namespace Sys2Proof

/-- The 13 addressing modes (30_encoding.md R102). -/
inductive Mode
  | implied
  | accumulator
  | immediate
  | zeroPage
  | zeroPageX
  | zeroPageY
  | absolute
  | absoluteX
  | absoluteY
  | indirect
  | preIndexedIndirectX
  | postIndexedIndirectY
  | relative
deriving DecidableEq, Repr

/-- The mode of an effective-address form. -/
def Ea.mode : Ea → Mode
  | .zp _ => .zeroPage
  | .zpx _ => .zeroPageX
  | .zpy _ => .zeroPageY
  | .abs _ => .absolute
  | .absx _ => .absoluteX
  | .absy _ => .absoluteY
  | .indx _ => .preIndexedIndirectX
  | .indy _ => .postIndexedIndirectY

/-- The mode of a source. -/
def Src.mode : Src → Mode
  | .imm _ => .immediate
  | .mem m => m.mode

/-- The mode of a shift or rotate operand. -/
def Place.mode : Place → Mode
  | .acc => .accumulator
  | .mem m => m.mode

/-- The mode of a JMP. -/
def Target.mode : Target → Mode
  | .abs _ => .absolute
  | .ind _ => .indirect

/-- The mode of an instruction; HALT and UNDEF are listed as implied, DEBUG as immediate (opcode_table.json). -/
def Instr.mode : Instr → Mode
  | .lda o | .ldx o | .ldy o => o.mode
  | .sta m | .stx m | .sty m => m.mode
  | .tax | .tay | .txa | .tya | .tsx | .txs => .implied
  | .adc o | .sbc o | .and o | .ora o | .eor o | .cmp o | .cpx o | .cpy o => o.mode
  | .bit m | .inc m | .dec m => m.mode
  | .inx | .iny | .dex | .dey => .implied
  | .asl d | .lsr d | .rol d | .ror d => d.mode
  | .bcc _ | .bcs _ | .beq _ | .bmi _ | .bne _ | .bpl _ | .bvc _ | .bvs _ => .relative
  | .jmp t => t.mode
  | .jsr _ => .absolute
  | .rts | .rti | .brk => .implied
  | .pha | .php | .pla | .plp => .implied
  | .clc | .cld | .cli | .clv | .sec | .sed | .sei | .nop => .implied
  | .undef _ | .halt => .implied
  | .debug _ => .immediate

/-- The eight forms of the accumulator instructions (R200, R230 to R235). -/
def accumulatorModes : List Mode :=
  [.immediate, .zeroPage, .zeroPageX, .absolute, .absoluteX, .absoluteY, .preIndexedIndirectX,
   .postIndexedIndirectY]

/-- The modes the opcode map gives each mnemonic (30_encoding.md R105). -/
def Instr.allowedModes : Instr → List Mode
  | .lda _ | .adc _ | .sbc _ | .and _ | .ora _ | .eor _ | .cmp _ => accumulatorModes
  | .ldx _ => [.immediate, .zeroPage, .zeroPageY, .absolute, .absoluteY]
  | .ldy _ => [.immediate, .zeroPage, .zeroPageX, .absolute, .absoluteX]
  | .sta _ => accumulatorModes.erase .immediate
  | .stx _ => [.zeroPage, .zeroPageY, .absolute]
  | .sty _ => [.zeroPage, .zeroPageX, .absolute]
  | .cpx _ | .cpy _ => [.immediate, .zeroPage, .absolute]
  | .bit _ => [.zeroPage, .absolute]
  | .inc _ | .dec _ => [.zeroPage, .zeroPageX, .absolute, .absoluteX]
  | .asl _ | .lsr _ | .rol _ | .ror _ =>
    [.accumulator, .zeroPage, .zeroPageX, .absolute, .absoluteX]
  | .bcc _ | .bcs _ | .beq _ | .bmi _ | .bne _ | .bpl _ | .bvc _ | .bvs _ => [.relative]
  | .jmp _ => [.absolute, .indirect]
  | .jsr _ => [.absolute]
  | .debug _ => [.immediate]
  | .tax | .tay | .txa | .tya | .tsx | .txs | .inx | .iny | .dex | .dey | .rts | .rti | .brk
  | .pha | .php | .pla | .plp | .clc | .cld | .cli | .clv | .sec | .sed | .sei | .nop
  | .undef _ | .halt => [.implied]

/-- The byte of an undefined opcode is one of the 105 and is no simulator opcode (R106, R108). -/
def Instr.undefinedByteOk (c : Config) : Instr → Bool
  | .undef op => undefinedOpcodes.contains op && op != c.opHalt && op != c.opDebug
  | .lda _ | .ldx _ | .ldy _ | .sta _ | .stx _ | .sty _ | .tax | .tay | .txa | .tya | .tsx | .txs
  | .adc _ | .sbc _ | .and _ | .ora _ | .eor _ | .cmp _ | .cpx _ | .cpy _ | .bit _ | .inc _
  | .dec _ | .inx | .iny | .dex | .dey | .asl _ | .lsr _ | .rol _ | .ror _
  | .bcc _ | .bcs _ | .beq _ | .bmi _ | .bne _ | .bpl _ | .bvc _ | .bvs _ | .jmp _ | .jsr _
  | .rts | .rti | .brk | .pha | .php | .pla | .plp | .clc | .cld | .cli | .clv | .sec | .sed
  | .sei | .nop | .halt | .debug _ => true

/-- A well-formed instruction of a machine configured as `c`. -/
def Instr.wellFormed (c : Config) (i : Instr) : Bool :=
  i.allowedModes.contains i.mode && i.undefinedByteOk c

end Sys2Proof
end

