-- ==== Sys2Proof/Decode.lean ====
section
/-!
DEFINITION. Decoding bytes to an instruction (30_encoding.md R100 to R108), total on any bytes, and the encoder, written
from the encodings of the instruction rules (42_load_store_transfer.md to 46_stack_flags_misc.md).
-/

namespace Sys2Proof

/-- The opcode map of 30_encoding.md R105, row by row: the instruction a byte that is no simulator opcode stands for,
with the two bytes after it (unused where the form is shorter). Every other byte is an undefined opcode (R108). -/
def opcodeMap (op b1 b2 : Byte) : Instr :=
  match op with
  | 0x00 => .brk
  | 0x01 => .ora (.mem (.indx b1))
  | 0x05 => .ora (.mem (.zp b1))
  | 0x06 => .asl (.mem (.zp b1))
  | 0x08 => .php
  | 0x09 => .ora (.imm b1)
  | 0x0A => .asl .acc
  | 0x0D => .ora (.mem (.abs (Machine.word b2 b1)))
  | 0x0E => .asl (.mem (.abs (Machine.word b2 b1)))
  | 0x10 => .bpl b1
  | 0x11 => .ora (.mem (.indy b1))
  | 0x15 => .ora (.mem (.zpx b1))
  | 0x16 => .asl (.mem (.zpx b1))
  | 0x18 => .clc
  | 0x19 => .ora (.mem (.absy (Machine.word b2 b1)))
  | 0x1D => .ora (.mem (.absx (Machine.word b2 b1)))
  | 0x1E => .asl (.mem (.absx (Machine.word b2 b1)))
  | 0x20 => .jsr (Machine.word b2 b1)
  | 0x21 => .and (.mem (.indx b1))
  | 0x24 => .bit (.zp b1)
  | 0x25 => .and (.mem (.zp b1))
  | 0x26 => .rol (.mem (.zp b1))
  | 0x28 => .plp
  | 0x29 => .and (.imm b1)
  | 0x2A => .rol .acc
  | 0x2C => .bit (.abs (Machine.word b2 b1))
  | 0x2D => .and (.mem (.abs (Machine.word b2 b1)))
  | 0x2E => .rol (.mem (.abs (Machine.word b2 b1)))
  | 0x30 => .bmi b1
  | 0x31 => .and (.mem (.indy b1))
  | 0x35 => .and (.mem (.zpx b1))
  | 0x36 => .rol (.mem (.zpx b1))
  | 0x38 => .sec
  | 0x39 => .and (.mem (.absy (Machine.word b2 b1)))
  | 0x3D => .and (.mem (.absx (Machine.word b2 b1)))
  | 0x3E => .rol (.mem (.absx (Machine.word b2 b1)))
  | 0x40 => .rti
  | 0x41 => .eor (.mem (.indx b1))
  | 0x45 => .eor (.mem (.zp b1))
  | 0x46 => .lsr (.mem (.zp b1))
  | 0x48 => .pha
  | 0x49 => .eor (.imm b1)
  | 0x4A => .lsr .acc
  | 0x4C => .jmp (.abs (Machine.word b2 b1))
  | 0x4D => .eor (.mem (.abs (Machine.word b2 b1)))
  | 0x4E => .lsr (.mem (.abs (Machine.word b2 b1)))
  | 0x50 => .bvc b1
  | 0x51 => .eor (.mem (.indy b1))
  | 0x55 => .eor (.mem (.zpx b1))
  | 0x56 => .lsr (.mem (.zpx b1))
  | 0x58 => .cli
  | 0x59 => .eor (.mem (.absy (Machine.word b2 b1)))
  | 0x5D => .eor (.mem (.absx (Machine.word b2 b1)))
  | 0x5E => .lsr (.mem (.absx (Machine.word b2 b1)))
  | 0x60 => .rts
  | 0x61 => .adc (.mem (.indx b1))
  | 0x65 => .adc (.mem (.zp b1))
  | 0x66 => .ror (.mem (.zp b1))
  | 0x68 => .pla
  | 0x69 => .adc (.imm b1)
  | 0x6A => .ror .acc
  | 0x6C => .jmp (.ind (Machine.word b2 b1))
  | 0x6D => .adc (.mem (.abs (Machine.word b2 b1)))
  | 0x6E => .ror (.mem (.abs (Machine.word b2 b1)))
  | 0x70 => .bvs b1
  | 0x71 => .adc (.mem (.indy b1))
  | 0x75 => .adc (.mem (.zpx b1))
  | 0x76 => .ror (.mem (.zpx b1))
  | 0x78 => .sei
  | 0x79 => .adc (.mem (.absy (Machine.word b2 b1)))
  | 0x7D => .adc (.mem (.absx (Machine.word b2 b1)))
  | 0x7E => .ror (.mem (.absx (Machine.word b2 b1)))
  | 0x81 => .sta (.indx b1)
  | 0x84 => .sty (.zp b1)
  | 0x85 => .sta (.zp b1)
  | 0x86 => .stx (.zp b1)
  | 0x88 => .dey
  | 0x8A => .txa
  | 0x8C => .sty (.abs (Machine.word b2 b1))
  | 0x8D => .sta (.abs (Machine.word b2 b1))
  | 0x8E => .stx (.abs (Machine.word b2 b1))
  | 0x90 => .bcc b1
  | 0x91 => .sta (.indy b1)
  | 0x94 => .sty (.zpx b1)
  | 0x95 => .sta (.zpx b1)
  | 0x96 => .stx (.zpy b1)
  | 0x98 => .tya
  | 0x99 => .sta (.absy (Machine.word b2 b1))
  | 0x9A => .txs
  | 0x9D => .sta (.absx (Machine.word b2 b1))
  | 0xA0 => .ldy (.imm b1)
  | 0xA1 => .lda (.mem (.indx b1))
  | 0xA2 => .ldx (.imm b1)
  | 0xA4 => .ldy (.mem (.zp b1))
  | 0xA5 => .lda (.mem (.zp b1))
  | 0xA6 => .ldx (.mem (.zp b1))
  | 0xA8 => .tay
  | 0xA9 => .lda (.imm b1)
  | 0xAA => .tax
  | 0xAC => .ldy (.mem (.abs (Machine.word b2 b1)))
  | 0xAD => .lda (.mem (.abs (Machine.word b2 b1)))
  | 0xAE => .ldx (.mem (.abs (Machine.word b2 b1)))
  | 0xB0 => .bcs b1
  | 0xB1 => .lda (.mem (.indy b1))
  | 0xB4 => .ldy (.mem (.zpx b1))
  | 0xB5 => .lda (.mem (.zpx b1))
  | 0xB6 => .ldx (.mem (.zpy b1))
  | 0xB8 => .clv
  | 0xB9 => .lda (.mem (.absy (Machine.word b2 b1)))
  | 0xBA => .tsx
  | 0xBC => .ldy (.mem (.absx (Machine.word b2 b1)))
  | 0xBD => .lda (.mem (.absx (Machine.word b2 b1)))
  | 0xBE => .ldx (.mem (.absy (Machine.word b2 b1)))
  | 0xC0 => .cpy (.imm b1)
  | 0xC1 => .cmp (.mem (.indx b1))
  | 0xC4 => .cpy (.mem (.zp b1))
  | 0xC5 => .cmp (.mem (.zp b1))
  | 0xC6 => .dec (.zp b1)
  | 0xC8 => .iny
  | 0xC9 => .cmp (.imm b1)
  | 0xCA => .dex
  | 0xCC => .cpy (.mem (.abs (Machine.word b2 b1)))
  | 0xCD => .cmp (.mem (.abs (Machine.word b2 b1)))
  | 0xCE => .dec (.abs (Machine.word b2 b1))
  | 0xD0 => .bne b1
  | 0xD1 => .cmp (.mem (.indy b1))
  | 0xD5 => .cmp (.mem (.zpx b1))
  | 0xD6 => .dec (.zpx b1)
  | 0xD8 => .cld
  | 0xD9 => .cmp (.mem (.absy (Machine.word b2 b1)))
  | 0xDD => .cmp (.mem (.absx (Machine.word b2 b1)))
  | 0xDE => .dec (.absx (Machine.word b2 b1))
  | 0xE0 => .cpx (.imm b1)
  | 0xE1 => .sbc (.mem (.indx b1))
  | 0xE4 => .cpx (.mem (.zp b1))
  | 0xE5 => .sbc (.mem (.zp b1))
  | 0xE6 => .inc (.zp b1)
  | 0xE8 => .inx
  | 0xE9 => .sbc (.imm b1)
  | 0xEA => .nop
  | 0xEC => .cpx (.mem (.abs (Machine.word b2 b1)))
  | 0xED => .sbc (.mem (.abs (Machine.word b2 b1)))
  | 0xEE => .inc (.abs (Machine.word b2 b1))
  | 0xF0 => .beq b1
  | 0xF1 => .sbc (.mem (.indy b1))
  | 0xF5 => .sbc (.mem (.zpx b1))
  | 0xF6 => .inc (.zpx b1)
  | 0xF8 => .sed
  | 0xF9 => .sbc (.mem (.absy (Machine.word b2 b1)))
  | 0xFD => .sbc (.mem (.absx (Machine.word b2 b1)))
  | 0xFE => .inc (.absx (Machine.word b2 b1))
  | other => .undef other

/-- The order of 30_encoding.md R106: HALT, DEBUG, the opcode map, and otherwise an undefined opcode. -/
def decodeOp (c : Config) (op b1 b2 : Byte) : Instr :=
  if op = c.opHalt then .halt
  else if op = c.opDebug then .debug b1
  else opcodeMap op b1 b2

/-- The bytes of an effective-address form after the opcode, in order (R102, R104: low byte first). -/
def Ea.bytes : Ea → List Byte
  | .zp z | .zpx z | .zpy z | .indx z | .indy z => [z]
  | .abs w | .absx w | .absy w => [Machine.lowByte w, Machine.highByte w]

/-- The bytes of a source after the opcode. -/
def Src.bytes : Src → List Byte
  | .imm b => [b]
  | .mem m => m.bytes

/-- The bytes of a shift or rotate operand after the opcode. -/
def Place.bytes : Place → List Byte
  | .acc => []
  | .mem m => m.bytes

/-- The bytes of a JMP after the opcode. -/
def Target.bytes : Target → List Byte
  | .abs w | .ind w => [Machine.lowByte w, Machine.highByte w]

/-- The operand bytes of an instruction, in order (R102). -/
def Instr.operandBytes : Instr → List Byte
  | .lda o | .ldx o | .ldy o | .adc o | .sbc o | .and o | .ora o | .eor o | .cmp o | .cpx o
  | .cpy o => o.bytes
  | .sta m | .stx m | .sty m | .bit m | .inc m | .dec m => m.bytes
  | .asl d | .lsr d | .rol d | .ror d => d.bytes
  | .bcc off | .bcs off | .beq off | .bmi off | .bne off | .bpl off | .bvc off | .bvs off => [off]
  | .jmp t => t.bytes
  | .jsr w => [Machine.lowByte w, Machine.highByte w]
  | .debug sel => [sel]
  | .tax | .tay | .txa | .tya | .tsx | .txs | .inx | .iny | .dex | .dey | .rts | .rti | .brk
  | .pha | .php | .pla | .plp | .clc | .cld | .cli | .clv | .sec | .sed | .sei | .nop
  | .undef _ | .halt => []

/-- The length of an instruction in bytes: the opcode and its operand bytes (R103). -/
def Instr.length (i : Instr) : Nat := 1 + i.operandBytes.length

/-- `len(opcode)`: it follows from the opcode byte alone (R101, R103). -/
def opcodeLength (c : Config) (op : Byte) : Nat := (decodeOp c op 0 0).length

/-- Why a list of bytes is no whole instruction. The machine itself never meets this: it fetches as many bytes as the
opcode asks for. -/
inductive DecodeError
  /-- there is no byte at all -/
  | noBytes
  /-- the bytes end inside the instruction whose opcode is `op` -/
  | truncated (op : Byte)
deriving DecidableEq, Repr

/-- The instruction at the head of a list of bytes, and the bytes after it. No byte value is refused (R106); only a
list that ends too soon is. -/
def decode (c : Config) : List Byte → Except DecodeError (Instr × List Byte)
  | [] => .error .noBytes
  | op :: rest =>
    match opcodeLength c op, rest with
    | 1, _ => .ok (decodeOp c op 0 0, rest)
    | 2, b1 :: rest' => .ok (decodeOp c op b1 0, rest')
    | 3, b1 :: b2 :: rest' => .ok (decodeOp c op b1 b2, rest')
    | _, _ => .error (.truncated op)

/-- The opcode byte of an instruction, from the Encoding line of its rule; none for a form the rule does not list. -/
def opcodeOf (c : Config) : Instr → Option Byte
  | .lda (.imm _) => some 0xA9
  | .lda (.mem (.zp _)) => some 0xA5
  | .lda (.mem (.zpx _)) => some 0xB5
  | .lda (.mem (.abs _)) => some 0xAD
  | .lda (.mem (.absx _)) => some 0xBD
  | .lda (.mem (.absy _)) => some 0xB9
  | .lda (.mem (.indx _)) => some 0xA1
  | .lda (.mem (.indy _)) => some 0xB1
  | .lda (.mem (.zpy _)) => none
  | .ldx (.imm _) => some 0xA2
  | .ldx (.mem (.zp _)) => some 0xA6
  | .ldx (.mem (.zpy _)) => some 0xB6
  | .ldx (.mem (.abs _)) => some 0xAE
  | .ldx (.mem (.absy _)) => some 0xBE
  | .ldx _ => none
  | .ldy (.imm _) => some 0xA0
  | .ldy (.mem (.zp _)) => some 0xA4
  | .ldy (.mem (.zpx _)) => some 0xB4
  | .ldy (.mem (.abs _)) => some 0xAC
  | .ldy (.mem (.absx _)) => some 0xBC
  | .ldy _ => none
  | .sta (.zp _) => some 0x85
  | .sta (.zpx _) => some 0x95
  | .sta (.abs _) => some 0x8D
  | .sta (.absx _) => some 0x9D
  | .sta (.absy _) => some 0x99
  | .sta (.indx _) => some 0x81
  | .sta (.indy _) => some 0x91
  | .sta _ => none
  | .stx (.zp _) => some 0x86
  | .stx (.zpy _) => some 0x96
  | .stx (.abs _) => some 0x8E
  | .stx _ => none
  | .sty (.zp _) => some 0x84
  | .sty (.zpx _) => some 0x94
  | .sty (.abs _) => some 0x8C
  | .sty _ => none
  | .tax => some 0xAA
  | .tay => some 0xA8
  | .txa => some 0x8A
  | .tya => some 0x98
  | .tsx => some 0xBA
  | .txs => some 0x9A
  | .adc (.imm _) => some 0x69
  | .adc (.mem (.zp _)) => some 0x65
  | .adc (.mem (.zpx _)) => some 0x75
  | .adc (.mem (.abs _)) => some 0x6D
  | .adc (.mem (.absx _)) => some 0x7D
  | .adc (.mem (.absy _)) => some 0x79
  | .adc (.mem (.indx _)) => some 0x61
  | .adc (.mem (.indy _)) => some 0x71
  | .adc (.mem (.zpy _)) => none
  | .sbc (.imm _) => some 0xE9
  | .sbc (.mem (.zp _)) => some 0xE5
  | .sbc (.mem (.zpx _)) => some 0xF5
  | .sbc (.mem (.abs _)) => some 0xED
  | .sbc (.mem (.absx _)) => some 0xFD
  | .sbc (.mem (.absy _)) => some 0xF9
  | .sbc (.mem (.indx _)) => some 0xE1
  | .sbc (.mem (.indy _)) => some 0xF1
  | .sbc (.mem (.zpy _)) => none
  | .and (.imm _) => some 0x29
  | .and (.mem (.zp _)) => some 0x25
  | .and (.mem (.zpx _)) => some 0x35
  | .and (.mem (.abs _)) => some 0x2D
  | .and (.mem (.absx _)) => some 0x3D
  | .and (.mem (.absy _)) => some 0x39
  | .and (.mem (.indx _)) => some 0x21
  | .and (.mem (.indy _)) => some 0x31
  | .and (.mem (.zpy _)) => none
  | .ora (.imm _) => some 0x09
  | .ora (.mem (.zp _)) => some 0x05
  | .ora (.mem (.zpx _)) => some 0x15
  | .ora (.mem (.abs _)) => some 0x0D
  | .ora (.mem (.absx _)) => some 0x1D
  | .ora (.mem (.absy _)) => some 0x19
  | .ora (.mem (.indx _)) => some 0x01
  | .ora (.mem (.indy _)) => some 0x11
  | .ora (.mem (.zpy _)) => none
  | .eor (.imm _) => some 0x49
  | .eor (.mem (.zp _)) => some 0x45
  | .eor (.mem (.zpx _)) => some 0x55
  | .eor (.mem (.abs _)) => some 0x4D
  | .eor (.mem (.absx _)) => some 0x5D
  | .eor (.mem (.absy _)) => some 0x59
  | .eor (.mem (.indx _)) => some 0x41
  | .eor (.mem (.indy _)) => some 0x51
  | .eor (.mem (.zpy _)) => none
  | .cmp (.imm _) => some 0xC9
  | .cmp (.mem (.zp _)) => some 0xC5
  | .cmp (.mem (.zpx _)) => some 0xD5
  | .cmp (.mem (.abs _)) => some 0xCD
  | .cmp (.mem (.absx _)) => some 0xDD
  | .cmp (.mem (.absy _)) => some 0xD9
  | .cmp (.mem (.indx _)) => some 0xC1
  | .cmp (.mem (.indy _)) => some 0xD1
  | .cmp (.mem (.zpy _)) => none
  | .cpx (.imm _) => some 0xE0
  | .cpx (.mem (.zp _)) => some 0xE4
  | .cpx (.mem (.abs _)) => some 0xEC
  | .cpx _ => none
  | .cpy (.imm _) => some 0xC0
  | .cpy (.mem (.zp _)) => some 0xC4
  | .cpy (.mem (.abs _)) => some 0xCC
  | .cpy _ => none
  | .bit (.zp _) => some 0x24
  | .bit (.abs _) => some 0x2C
  | .bit _ => none
  | .inc (.zp _) => some 0xE6
  | .inc (.zpx _) => some 0xF6
  | .inc (.abs _) => some 0xEE
  | .inc (.absx _) => some 0xFE
  | .inc _ => none
  | .dec (.zp _) => some 0xC6
  | .dec (.zpx _) => some 0xD6
  | .dec (.abs _) => some 0xCE
  | .dec (.absx _) => some 0xDE
  | .dec _ => none
  | .inx => some 0xE8
  | .iny => some 0xC8
  | .dex => some 0xCA
  | .dey => some 0x88
  | .asl .acc => some 0x0A
  | .asl (.mem (.zp _)) => some 0x06
  | .asl (.mem (.zpx _)) => some 0x16
  | .asl (.mem (.abs _)) => some 0x0E
  | .asl (.mem (.absx _)) => some 0x1E
  | .asl _ => none
  | .lsr .acc => some 0x4A
  | .lsr (.mem (.zp _)) => some 0x46
  | .lsr (.mem (.zpx _)) => some 0x56
  | .lsr (.mem (.abs _)) => some 0x4E
  | .lsr (.mem (.absx _)) => some 0x5E
  | .lsr _ => none
  | .rol .acc => some 0x2A
  | .rol (.mem (.zp _)) => some 0x26
  | .rol (.mem (.zpx _)) => some 0x36
  | .rol (.mem (.abs _)) => some 0x2E
  | .rol (.mem (.absx _)) => some 0x3E
  | .rol _ => none
  | .ror .acc => some 0x6A
  | .ror (.mem (.zp _)) => some 0x66
  | .ror (.mem (.zpx _)) => some 0x76
  | .ror (.mem (.abs _)) => some 0x6E
  | .ror (.mem (.absx _)) => some 0x7E
  | .ror _ => none
  | .bcc _ => some 0x90
  | .bcs _ => some 0xB0
  | .beq _ => some 0xF0
  | .bmi _ => some 0x30
  | .bne _ => some 0xD0
  | .bpl _ => some 0x10
  | .bvc _ => some 0x50
  | .bvs _ => some 0x70
  | .jmp (.abs _) => some 0x4C
  | .jmp (.ind _) => some 0x6C
  | .jsr _ => some 0x20
  | .rts => some 0x60
  | .rti => some 0x40
  | .brk => some 0x00
  | .pha => some 0x48
  | .php => some 0x08
  | .pla => some 0x68
  | .plp => some 0x28
  | .clc => some 0x18
  | .cld => some 0xD8
  | .cli => some 0x58
  | .clv => some 0xB8
  | .sec => some 0x38
  | .sed => some 0xF8
  | .sei => some 0x78
  | .nop => some 0xEA
  | .undef op => if (Instr.undef op).undefinedByteOk c then some op else none
  | .halt => some c.opHalt
  | .debug _ => some c.opDebug

/-- The bytes of a well-formed instruction, in memory order; the empty list for an ill-formed one. -/
def encode (c : Config) (i : Instr) : List Byte :=
  match opcodeOf c i with
  | some op => op :: i.operandBytes
  | none => []

/-- Byte `k` of an instruction numbered as spec/opcode_table.json numbers it: byte 0 holds bits 7 to 0. -/
def tableByte (nbits w k : Nat) : Byte := BitVec.ofNat 8 ((w % 2 ^ nbits) / 2 ^ (8 * k))

/-- The bytes of a table word, as many as the longest instruction has; every bit above `nbits` is 0. -/
def tableBytes (nbits w : Nat) : List Byte :=
  [tableByte nbits w 0, tableByte nbits w 1, tableByte nbits w 2]

/-- The instruction the decoder of the standard configuration reads from a table word. -/
def decodeTableWord (nbits w : Nat) : Option Instr :=
  match decode Config.standard (tableBytes nbits w) with
  | .ok (i, _) => some i
  | .error _ => none

end Sys2Proof
end

