-- ==== Sys2Proof/Machine/Memory.lean ====
section
/-!
DEFINITION. The bytes of the RAM and ROM regions: a list of (address, byte) pairs in one canonical form, addresses
strictly rising and no entry equal to what an unlisted address reads as.
-/

namespace Sys2Proof.Machine

/-- Memory contents by bus address. -/
abbrev Mem := List Host.Cell

/-- What an unlisted address reads as. The spec leaves RAM at power-on OPEN (10_state.md R39). DESIGN CHOICE, unsafe:
0x00 (log 4). A statement about every state covers every RAM content. -/
def fillByte : Byte := 0x00

/-- The byte stored at an address. -/
def memGet : Mem → Nat → Byte
  | [], _ => fillByte
  | cell :: m, a => if cell.1 = a then cell.2 else memGet m a

/-- Insert a cell before the first higher address. -/
def memInsert (c : Host.Cell) : Mem → Mem
  | [] => [c]
  | d :: m => if c.1 < d.1 then c :: d :: m else d :: memInsert c m

/-- Store a byte: the old entry goes, and a new one stands unless it is what an unlisted address reads as. -/
def memSet (m : Mem) (a : Nat) (v : Byte) : Mem :=
  let rest := m.filter fun c => c.1 != a
  if v = fillByte then rest else memInsert (a, v) rest

/-- Store bytes at consecutive addresses. -/
def memSetList (m : Mem) (a : Nat) : List Byte → Mem
  | [] => m
  | v :: vs => memSetList (memSet m a v) (a + 1) vs

/-- Forget the bytes at addresses `lo` to `hi - 1`. -/
def memErase (m : Mem) (lo hi : Nat) : Mem := m.filter fun c => c.1 < lo || hi ≤ c.1

/-- The canonical form: addresses strictly rising and inside the 64 KB space, no entry that an unlisted address would
read as. -/
abbrev Mem.wf (m : Mem) : Prop :=
  m.Pairwise (fun c d => c.1 < d.1) ∧ ∀ c ∈ m, c.2 ≠ fillByte ∧ c.1 < 65536

end Sys2Proof.Machine
end

