-- ==== Sys2Proof/Machine/State.lean ====
section
/-!
DEFINITION. The state of the machine (10_state.md), every piece of it, as plain data; the reasons a machine is not
built; and `State.reset`, the machine at power-on.
-/

namespace Sys2Proof.Machine

/-- The configuration faults of 70_reset_and_hazards.md R497. Only the constructor `powerOn` raises them, before the
machine starts (00_scope.md R12); no instruction, no bus access and no step does (60_exceptions.md R450). All are
safe: the spec builds no machine either. -/
inductive Fault
  /-- raised by `powerOn`: a ROM image is missing or cannot be loaded. Safe. -/
  | romImageMissing
  /-- raised by `powerOn`: a ROM image's length is not the region's `256·n` bytes. Safe. -/
  | romImageLength
  /-- raised by `powerOn`: a region's base address is not a multiple of 256. Safe. -/
  | regionUnaligned
  /-- raised by `powerOn`: a region has no block, or its span passes 0xFFFF. Safe. -/
  | regionSpan
  /-- raised by `powerOn`: there is no ACIA region, or more than one. Safe. -/
  | aciaCount
deriving DecidableEq, Repr

/-- Why an instruction has no meaning. No arm of `exec` and no meaning of this model answers with it. -/
inductive Refusal
  /-- raised by an arm of `exec` whose instruction has no meaning yet. Safe: the run stops. -/
  | notModelled (mnemonic : String)
deriving DecidableEq, Repr

/-- The ACIA (10_state.md R40). -/
structure Acia where
  /-- RDRF: receive data register full, status bit 0 -/
  rdrf : Bool
  /-- TDRE: transmit data register empty, status bit 1 -/
  tdre : Bool
  /-- RDR: the pending receive byte -/
  rdr : Byte
  /-- TDR: the pending transmit byte -/
  tdr : Byte
  /-- TDR holds a byte the worker has not yet taken -/
  txPending : Bool
  /-- the worker holds a byte it is sending -/
  txBusy : Bool
  /-- the byte the worker is sending -/
  txShift : Byte
  /-- the last control value, which gives the timing -/
  ctrl : Byte
  /-- a transmit peer is attached (host-owned) -/
  txPeer : Bool
  /-- a receive peer is attached (host-owned) -/
  rxPeer : Bool
deriving DecidableEq, Repr

/-- The two tones of a tape (48_tape_codec.md R400): mark is a 1 bit, space a 0 bit. -/
inductive Tone
  | mark
  | space
deriving DecidableEq, Repr

/-- The states of the peak detector (R412). -/
inductive PeakState
  | seekNeg
  | seekPeak
deriving DecidableEq, Repr

/-- A tape decode session (10_state.md R41, 48_tape_codec.md R411 to R419). -/
structure Session where
  /-- the expected length of a mark cycle -/
  countHi : Rat
  /-- the expected length of a space cycle -/
  countLo : Rat
  runClass : Tone
  runCount : Nat
  /-- the sample before the next one (zero-crossing detector) -/
  prevSample : Option Int
  peakState : PeakState
  /-- the index of the next sample -/
  nextIndex : Nat
  /-- the last boundary found -/
  lastBoundary : Option Nat
  /-- the byte reader has answered EOD (R419) -/
  ended : Bool
  /-- the samples not read yet, after any inversion -/
  input : List Int
deriving DecidableEq, Repr

/-- What the host, the peers and the external devices observe of the core. -/
inductive Event
  /-- the transmit peer's `write_byte(b)` (47_acia.md R371) -/
  | peerWrite (b : Byte)
  /-- an external device at `addr`, offset `off` of its region, saw a read (20_memory.md R64) -/
  | deviceRead (addr : Addr) (off : Nat)
  /-- an external device at `addr`, offset `off` of its region, received `v` (R66) -/
  | deviceWrite (addr : Addr) (off : Nat) (v : Byte)
  /-- `DebugCallback(sel)` (46_stack_flags_misc.md R334) -/
  | debugCallback (sel : Byte)
  /-- the trace sink's event of one executed instruction (60_exceptions.md R470) -/
  | traced
  /-- the tape decoder's answer to a request for a byte: a byte, or EOD (48_tape_codec.md R418, R419) -/
  | tapeByte (b : Option Byte)
deriving DecidableEq, Repr

/-- The state of the machine. -/
structure State where
  /-- A (10_state.md R21) -/
  a : Byte
  /-- X (R22) -/
  x : Byte
  /-- Y (R23) -/
  y : Byte
  /-- S (R24) -/
  sp : Byte
  /-- P = N V x B D I Z C (R26) -/
  p : Byte
  /-- pc (R25) -/
  pc : Addr
  /-- the RESET latch (R32) -/
  resetLatch : Bool
  /-- the NMI latch (R32) -/
  nmiLatch : Bool
  /-- the IRQ latch (R32) -/
  irqLatch : Bool
  /-- halted (R33) -/
  halted : Bool
  /-- stopRequested (R34) -/
  stopRequested : Bool
  /-- cycles (R35) -/
  cycles : Nat
  /-- the bytes of RAM and ROM (R38, R39) -/
  mem : Mem
  /-- the ACIA (R40) -/
  acia : Acia
  /-- the tape decode session (R41) -/
  tape : Session
  /-- the host's clock setting; 0 is unregulated (00_scope.md R8) -/
  clockMHz : Rat
  /-- the trace sink is on (60_exceptions.md R467) -/
  traceOn : Bool
  /-- the configuration, the region table among it (R37, 00_scope.md R8) -/
  cfg : Config
  /-- the MODEL's own: how many gaps between accesses have passed; the index of the free values (log 8) -/
  tick : Nat
  /-- the MODEL's own: what has been observed so far, newest first (log 15) -/
  events : List Event
deriving DecidableEq, Repr

/-- The ACIA at power-on, no peer attached (47_acia.md R379). TDR and txShift are unspecified and never read before
they are written (R43). DESIGN CHOICE, safe: 0x00 (log 11). -/
def Acia.powerOn (c : Config) : Acia where
  rdrf := false
  tdre := true
  rdr := c.aciaRdrInit
  tdr := 0x00
  txPending := false
  txBusy := false
  txShift := 0x00
  ctrl := 0x00
  txPeer := false
  rxPeer := false

/-- A machine as 70_reset_and_hazards.md R490 constructs it, with memory contents `m`. The registers have no power-on
value of their own; they stand at the values of `ServiceReset` but for pc, which the first iteration reads from the
reset vector before anything uses it (R491; log 3). -/
def State.powerOn (c : Config) (m : Mem) : State where
  a := c.resetA
  x := c.resetX
  y := c.resetY
  sp := c.resetS
  p := c.resetP ||| 0x20
  pc := 0x0000
  resetLatch := true
  nmiLatch := false
  irqLatch := false
  halted := false
  stopRequested := false
  cycles := 0
  mem := m
  acia := Acia.powerOn c
  tape :=
    { countHi := (c.sampleRate : Rat) / c.markFreq
      countLo := 2 * ((c.sampleRate : Rat) / c.markFreq)
      runClass := .mark
      runCount := 0
      prevSample := none
      peakState := .seekNeg
      nextIndex := 0
      lastBoundary := none
      ended := false
      input := [] }
  clockMHz := 0
  traceOn := false
  cfg := c
  tick := 0
  events := []

/-- The machine right after reset: the standard configuration at power-on (10_state.md R43, R490), nothing listed in
memory. Its RESET latch is set, so the first step services RESET and then runs the instruction at the reset vector
(R491; log 3). pc already stands at the vector the standard ROM contents give, 0x0000. -/
def State.reset : State := State.powerOn Config.standard []

-- The updates the meanings are written with.

/-- `A <- v` -/
def State.setA (s : State) (v : Byte) : State := { s with a := v }

/-- `X <- v` -/
def State.setX (s : State) (v : Byte) : State := { s with x := v }

/-- `Y <- v` -/
def State.setY (s : State) (v : Byte) : State := { s with y := v }

/-- `S <- v` -/
def State.setSp (s : State) (v : Byte) : State := { s with sp := v }

/-- Store P as it is given; a whole byte goes through `writeP` (Machine/Flags.lean). -/
def State.setP (s : State) (v : Byte) : State := { s with p := v }

/-- `pc <- w` -/
def State.setPc (s : State) (w : Addr) : State := { s with pc := w }

/-- Charge `n` cycles (10_state.md R35). -/
def State.addCycles (s : State) (n : Nat) : State := { s with cycles := s.cycles + n }

/-- Replace the memory contents. -/
def State.setMem (s : State) (m : Mem) : State := { s with mem := m }

/-- Replace the ACIA. -/
def State.setAcia (s : State) (d : Acia) : State := { s with acia := d }

/-- Replace the decode session. -/
def State.setTape (s : State) (t : Session) : State := { s with tape := t }

/-- `halted <- b` -/
def State.setHalted (s : State) (b : Bool) : State := { s with halted := b }

/-- Set the three signal latches. -/
def State.setLatches (s : State) (reset nmi irq : Bool) : State :=
  { s with resetLatch := reset, nmiLatch := nmi, irqLatch := irq }

/-- Record an event. -/
def State.emit (s : State) (e : Event) : State := { s with events := e :: s.events }

end Sys2Proof.Machine
end

