-- ==== Sys2Proof/Machine/Flags.lean ====
section
/-!
DEFINITION. The status register P and its flags (10_state.md R26 to R30, 00_scope.md R13, 40_alu.md R152).
-/

namespace Sys2Proof.Machine

/-- The stored flags of P (10_state.md R26). Bit 5 is no flag: it always reads as 1 (R27). -/
inductive Flag
  | n
  | v
  | b
  | d
  | i
  | z
  | c
deriving DecidableEq, Repr

/-- The bit of P that holds a flag (R26). -/
def Flag.bit : Flag → Nat
  | .n => 7
  | .v => 6
  | .b => 4
  | .d => 3
  | .i => 2
  | .z => 1
  | .c => 0

/-- `P.F`. -/
def flag (p : Byte) (f : Flag) : Bool := p.getLsbD f.bit

/-- `P.x`, bit 5 (R26, R27). -/
def flagX (p : Byte) : Bool := p.getLsbD 5

/-- The byte `p` with flag `f` set to `b`. -/
def setFlag (p : Byte) (f : Flag) (b : Bool) : Byte :=
  if b then p ||| (1#8 <<< f.bit) else p &&& ~~~(1#8 <<< f.bit)

/-- `P.F` of a state. -/
def State.flag (s : State) (f : Flag) : Bool := Machine.flag s.p f

/-- `P.F <- b`. -/
def State.setFlag (s : State) (f : Flag) (b : Bool) : State := s.setP (Machine.setFlag s.p f b)

/-- A read of the whole of P: bit 5 is seen as 1 (R27). -/
def State.readP (s : State) : Byte := s.p ||| 0x20

/-- A write of a whole byte to P stores `v | 0x20` (R27). -/
def State.writeP (s : State) (v : Byte) : State := s.setP (v ||| 0x20)

/-- The flags an operation defines: none where it does not define the flag (40_alu.md R140). -/
structure FlagOut where
  n : Option Bool := none
  z : Option Bool := none
  c : Option Bool := none
  v : Option Bool := none
deriving DecidableEq, Repr

/-- Write one flag if it is defined. -/
def setFlag? (p : Byte) (f : Flag) : Option Bool → Byte
  | some b => setFlag p f b
  | none => p

/-- Write back exactly the flags an operation defines (40_alu.md R152). -/
def applyFlags (p : Byte) (o : FlagOut) : Byte :=
  setFlag? (setFlag? (setFlag? (setFlag? p .n o.n) .z o.z) .c o.c) .v o.v

/-- Write back the defined flags of a state. -/
def State.applyFlags (s : State) (o : FlagOut) : State := s.setP (Machine.applyFlags s.p o)

/-- The flags of `SetNZ(r)` (00_scope.md R13). -/
def nzOf (r : Byte) : FlagOut where
  n := some r.msb
  z := some (r == 0)

/-- `SetNZ(r)`. -/
def State.setNZ (s : State) (r : Byte) : State := s.applyFlags (nzOf r)

end Sys2Proof.Machine
end

