-- ==== Sys2Proof/Machine/Alu.lean ====
section
/-!
DEFINITION. The ALU (40_alu.md): functions from bytes and a carry to a result byte and the flags they define.
-/

namespace Sys2Proof.Machine

/-- What an ALU function returns (40_alu.md R140). -/
structure AluOut where
  r : Byte
  flags : FlagOut
deriving DecidableEq, Repr

/-- A carry as a number. -/
def bitNat (c : Bool) : Nat := if c then 1 else 0

/-- Signed overflow of an exact signed result (R141, R143). -/
def signedOverflow (sv : Int) : Bool := decide (sv < -128) || decide (sv > 127)

/-- `add` in binary mode (R141). -/
def addBinary (a b : Byte) (c : Bool) : AluOut :=
  let s := a.toNat + b.toNat + bitNat c
  let r := BitVec.ofNat 8 s
  let sv := a.toInt + b.toInt + bitNat c
  { r := r
    flags := { n := some r.msb, z := some (r == 0), c := some (decide (255 < s))
               v := some (signedOverflow sv) } }

/-- `dec(x)`: a byte as two decimal digits at face value (R142). -/
def decOf (x : Byte) : Nat := 10 * (x.toNat / 16) + x.toNat % 16

/-- A number 0 to 99 as packed BCD (R142). -/
def packBcd (t : Nat) : Byte := BitVec.ofNat 8 (16 * (t / 10) + t % 10)

/-- `add` in decimal mode (R142): V is not written. -/
def addDecimal (a b : Byte) (c : Bool) : AluOut :=
  let s := decOf a + decOf b + bitNat c
  let r := packBcd (s % 100)
  { r := r
    flags := { n := some r.msb, z := some (r == 0), c := some (decide (100 ≤ s)) } }

/-- `sub` in binary mode (R143). -/
def subBinary (a b : Byte) (c : Bool) : AluOut :=
  let w : Int := 1 - bitNat c
  let d : Int := a.toNat - b.toNat - w
  let r := BitVec.ofInt 8 d
  let sv := a.toInt - b.toInt - w
  { r := r
    flags := { n := some r.msb, z := some (r == 0), c := some (decide (0 ≤ d))
               v := some (signedOverflow sv) } }

/-- `sub` in decimal mode (R144): V is not written. -/
def subDecimal (a b : Byte) (c : Bool) : AluOut :=
  let w : Int := 1 - bitNat c
  let d : Int := decOf a - decOf b - w
  let r := packBcd (d % 100).toNat
  { r := r
    flags := { n := some r.msb, z := some (r == 0), c := some (decide (0 ≤ d)) } }

/-- `add`: decimal when P.D is 1, binary otherwise (R145). -/
def aluAdd (d : Bool) (a b : Byte) (c : Bool) : AluOut :=
  if d then addDecimal a b c else addBinary a b c

/-- `sub`: decimal when P.D is 1, binary otherwise (R145). -/
def aluSub (d : Bool) (a b : Byte) (c : Bool) : AluOut :=
  if d then subDecimal a b c else subBinary a b c

/-- `cmp` (R146): the flags of an unsigned comparison; the difference byte goes nowhere. -/
def aluCmp (a b : Byte) : FlagOut :=
  let r := a - b
  { n := some r.msb, z := some (r == 0), c := some (decide (b.toNat ≤ a.toNat)) }

/-- A result that defines N and Z only (R147, R153). -/
def withNZ (r : Byte) : AluOut where
  r := r
  flags := nzOf r

/-- A result that defines N, Z and a carry (R148 to R151). -/
def withNZC (r : Byte) (c : Bool) : AluOut where
  r := r
  flags := { n := some r.msb, z := some (r == 0), c := some c }

/-- `and` (R147). -/
def aluAnd (a b : Byte) : AluOut := withNZ (a &&& b)

/-- `or` (R147). -/
def aluOr (a b : Byte) : AluOut := withNZ (a ||| b)

/-- `xor` (R147). -/
def aluXor (a b : Byte) : AluOut := withNZ (a ^^^ b)

/-- `shl` (R148). -/
def aluShl (v : Byte) : AluOut := withNZC (v <<< 1) (v.getLsbD 7)

/-- `shr` (R149). -/
def aluShr (v : Byte) : AluOut := withNZC (v >>> 1) (v.getLsbD 0)

/-- `rol` (R150). -/
def aluRol (v : Byte) (c : Bool) : AluOut :=
  withNZC ((v <<< 1) ||| BitVec.ofNat 8 (bitNat c)) (v.getLsbD 7)

/-- `ror` (R151). -/
def aluRor (v : Byte) (c : Bool) : AluOut :=
  withNZC ((v >>> 1) ||| (BitVec.ofNat 8 (bitNat c) <<< 7)) (v.getLsbD 0)

/-- `inc` (R153). -/
def aluInc (v : Byte) : AluOut := withNZ (v + 1)

/-- `dec1` (R153). -/
def aluDec (v : Byte) : AluOut := withNZ (v - 1)

/-- BIT's flags (43_arith_logic.md R238): Z from `A & v`, N and V copied from the operand. -/
def bitFlags (a v : Byte) : FlagOut where
  n := some (v.getLsbD 7)
  z := some ((a &&& v) == 0)
  v := some (v.getLsbD 6)

end Sys2Proof.Machine
end

