-- ==== Sys2Proof/Machine/AciaOps.lean ====
section
/-!
DEFINITION. The ACIA's registers and its worker (47_acia.md R360 to R382).
-/

namespace Sys2Proof.Machine

/-- The status register: RDRF in bit 0, TDRE in bit 1, bits 2 to 7 zero (R361, R362). -/
def Acia.status (d : Acia) : Byte :=
  (if d.tdre then 0x02 else 0x00) ||| (if d.rdrf then 0x01 else 0x00)

/-- The byte a read at offset `off` returns: status at an even offset, RDR at an odd one (R360, R362, R366, R380). -/
def Acia.peek (d : Acia) (off : Nat) : Byte := if off % 2 = 0 then d.status else d.rdr

/-- The effect of a read at offset `off`: a data read clears RDRF, unless it is one that spares the ACIA; a status read
changes nothing (R362, R366, R367, R382). -/
def Acia.afterRead (d : Acia) (off : Nat) (spared : Bool) : Acia :=
  if off % 2 = 0 then d else if spared then d else { d with rdrf := false }

/-- A control write: exactly 0x03 is the master reset (R363); any other value only sets `ctrl` (R364). -/
def Acia.writeControl (d : Acia) (v : Byte) : Acia :=
  if v = 0x03 then { d with tdre := true, rdrf := false, txPending := false, ctrl := 0x00 }
  else { d with ctrl := v }

/-- A data write (R368). -/
def Acia.writeData (d : Acia) (v : Byte) : Acia :=
  { d with tdr := v, txPending := true, tdre := false }

/-- The effect of a write at offset `off` (R360). -/
def Acia.afterWrite (d : Acia) (off : Nat) (v : Byte) : Acia :=
  if off % 2 = 0 then d.writeControl v else d.writeData v

/-- Whether a worker step is enabled (R370 to R372). -/
def moveEnabled : WorkerMove → Acia → Bool
  | .txStart, d => d.txPending && !d.txBusy
  | .txFinish, d => d.txBusy
  | .rxPoll _, d => d.rxPeer && !d.rdrf

/-- TxStart (R370). -/
def Acia.txStart (d : Acia) : Acia :=
  { d with txShift := d.tdr, txPending := false, txBusy := true }

/-- TxFinish (R371): TDRE rises only if no further byte is pending. -/
def Acia.txFinish (d : Acia) : Acia :=
  { d with txBusy := false, tdre := if d.txPending then d.tdre else true }

/-- The byte TxFinish gives the peer, if one is attached (R371). -/
def Acia.txEvents (d : Acia) : List Event := if d.txPeer then [.peerWrite d.txShift] else []

/-- RxPoll with the peer's answer (R372). -/
def Acia.rxPoll (d : Acia) : Option Byte → Acia
  | some b => { d with rdr := b, rdrf := true }
  | none => d

/-- The ACIA after an enabled worker step. -/
def Acia.afterMove (d : Acia) : WorkerMove → Acia
  | .txStart => d.txStart
  | .txFinish => d.txFinish
  | .rxPoll ans => d.rxPoll ans

/-- The events of an enabled worker step. -/
def Acia.moveEvents (d : Acia) : WorkerMove → List Event
  | .txStart => []
  | .txFinish => d.txEvents
  | .rxPoll _ => []

/-- One worker step, on the ACIA and the events so far; a step that is not enabled is not taken (R369). -/
def workerStep (m : WorkerMove) (w : Acia × List Event) : Acia × List Event :=
  if moveEnabled m w.1 then (w.1.afterMove m, w.1.moveEvents m ++ w.2) else w

/-- Worker steps one after another. -/
def workerRun : List WorkerMove → Acia × List Event → Acia × List Event
  | [], w => w
  | m :: ms, w => workerRun ms (workerStep m w)

end Sys2Proof.Machine
end

