-- ==== Sys2Proof/Machine/Ops.lean ====
section
/-!
DEFINITION. The bus (20_memory.md), the memory primitives of 00_scope.md R11, taking an interrupt and returning from
one (60_exceptions.md R457 to R462), and the end of an instruction.
-/

namespace Sys2Proof.Machine

/-- What a meaning answers. -/
abbrev Result := Host.Outcome State Fault Refusal

-- The bus map (20_memory.md R61 to R63).

/-- The first block of a region. -/
def baseBlock (r : Region) : Nat := r.baseAddr / 256

/-- The region spans block `blk`. -/
def covers (r : Region) (blk : Nat) : Bool :=
  decide (baseBlock r ≤ blk) && decide (blk < baseBlock r + r.blockCount)

/-- Slot `blk` of the region table: registering the regions in order, a later one overwrites the slot (R62). None is
"unmapped". -/
def slotOf (table : List Region) (blk : Nat) : Option Region :=
  table.foldl (fun slot r => if covers r blk then some r else slot) none

/-- The region that owns an address (R61, R63). -/
def State.owner (s : State) (a : Addr) : Option Region :=
  slotOf s.cfg.regionTable (highByte a).toNat

/-- The kind of the owning region; none where the address is unmapped. -/
def State.kindAt (s : State) (a : Addr) : Option RegionKind := (s.owner a).map Region.kind

/-- The address relative to the owning region's base (R63). -/
def State.offsetAt (s : State) (a : Addr) : Nat :=
  match s.owner a with
  | some r => a.toNat - 256 * baseBlock r
  | none => 0

-- The worker between accesses.

/-- A gap between two bus accesses, or an idle step: the worker takes the moves the free value gives (20_memory.md R78;
log 8). Only the ACIA and the events can change. -/
def gap (s : State) : State :=
  { s with
    acia := (workerRun (Config.workerMoves s.tick) (s.acia, s.events)).1
    events := (workerRun (Config.workerMoves s.tick) (s.acia, s.events)).2
    tick := s.tick + 1 }

-- Single accesses (R64 to R66).

/-- Who makes an access: the instruction whose opcode is at pc, an NMI or IRQ service, or the RESET service (47_acia.md
R367, R382; logs 14 and 30). -/
inductive Accessor
  | instruction
  | service
  | reset
deriving DecidableEq, Repr

/-- `TraceRead(addr)` (R65): the byte a read at this moment would return. -/
def State.traceRead (s : State) (a : Addr) : Byte :=
  match s.kindAt a with
  | none => highByte a
  | some .ram => memGet s.mem a.toNat
  | some .rom => memGet s.mem a.toNat
  | some .acia => s.acia.peek (s.offsetAt a)
  | some .device => Config.deviceByte s.tick a

/-- The stray-read quirk covers this access (47_acia.md R367). -/
def strayRead (w : Accessor) (s : State) : Bool :=
  s.cfg.quirkStrayRead && decide (w = .instruction) && decide (s.pc = s.cfg.quirkStrayReadPC)

/-- A data read that leaves the ACIA as it was: one the stray-read quirk covers (47_acia.md R367), or one of the RESET
service, which does not touch the ACIA (R382, 10_state.md R43, 92_eei_decisions.md D23; log 30). -/
def sparesAcia (w : Accessor) (s : State) : Bool := strayRead w s || decide (w = .reset)

/-- The ACIA after a read of `a`. -/
def aciaAfterRead (w : Accessor) (a : Addr) (s : State) : Acia :=
  match s.kindAt a with
  | some .acia => s.acia.afterRead (s.offsetAt a) (sparesAcia w s)
  | _ => s.acia

/-- The events after a read of `a`: an external device sees the access (R64). -/
def eventsAfterRead (a : Addr) (s : State) : List Event :=
  match s.kindAt a with
  | some .device => .deviceRead a (s.offsetAt a) :: s.events
  | _ => s.events

/-- The side effects of a read (R64, R71). -/
def readEffect (w : Accessor) (a : Addr) (s : State) : State :=
  { s with acia := aciaAfterRead w a s, events := eventsAfterRead a s }

/-- `MemRead(addr, 1)` (R64): one read access, a gap before it. -/
def memRead (w : Accessor) (a : Addr) (s : State) : Byte × State :=
  ((gap s).traceRead a, readEffect w a (gap s))

/-- Memory after a write of `a`: only RAM stores (R66). -/
def memAfterWrite (a : Addr) (v : Byte) (s : State) : Mem :=
  match s.kindAt a with
  | some .ram => memSet s.mem a.toNat v
  | _ => s.mem

/-- The ACIA after a write of `a`. -/
def aciaAfterWrite (a : Addr) (v : Byte) (s : State) : Acia :=
  match s.kindAt a with
  | some .acia => s.acia.afterWrite (s.offsetAt a) v
  | _ => s.acia

/-- The events after a write of `a`: an external device receives it (R66). -/
def eventsAfterWrite (a : Addr) (v : Byte) (s : State) : List Event :=
  match s.kindAt a with
  | some .device => .deviceWrite a (s.offsetAt a) v :: s.events
  | _ => s.events

/-- The effect of a write, by the kind of the owning region (R66). -/
def writeEffect (a : Addr) (v : Byte) (s : State) : State :=
  { s with
    mem := memAfterWrite a v s
    acia := aciaAfterWrite a v s
    events := eventsAfterWrite a v s }

/-- `MemWrite(addr, 1, v)` (R66): one write access, a gap before it. -/
def memWrite (a : Addr) (v : Byte) (s : State) : State := writeEffect a v (gap s)

-- Words and the stack (00_scope.md R11, 20_memory.md R67, R74).

/-- `MemRead(addr, 2)`: the low byte first, the second address wrapping within 64 KB. -/
def memRead2 (w : Accessor) (a : Addr) (s : State) : Addr × State :=
  let lo := memRead w a s
  let hi := memRead w (a + 1) lo.2
  (word hi.1 lo.1, hi.2)

/-- `ReadWordZP(z)`: the low byte first, the second address wrapping within page zero. -/
def readWordZP (z : Byte) (s : State) : Addr × State :=
  let lo := memRead .instruction (zext z) s
  let hi := memRead .instruction (zext (z + 1)) lo.2
  (word hi.1 lo.1, hi.2)

/-- The stack address of an offset (R74). -/
def stackAddr (sp : Byte) : Addr := 0x0100 + zext sp

/-- `Push(v)`: write, then decrement S (R74). -/
def push (v : Byte) (s : State) : State := (memWrite (stackAddr s.sp) v s).setSp (s.sp - 1)

/-- `Pull()`: increment S, then read (R74). Only instructions pull. -/
def pull (s : State) : Byte × State :=
  memRead .instruction (stackAddr (s.sp + 1)) (s.setSp (s.sp + 1))

-- Interrupts (60_exceptions.md).

/-- The NMI vector (20_memory.md R72). -/
def nmiVector : Addr := 0xFFFA

/-- The RESET vector (R72). -/
def resetVector : Addr := 0xFFFC

/-- The IRQ and BRK vector (R72). -/
def irqVector : Addr := 0xFFFE

/-- What an interrupt saves and marks: push the return address, high byte first; set or clear P.B where `brk` says so,
in P itself; push P; set I (R458, R459, 45_control_flow.md R303). -/
def saveContext (ret : Addr) (brk : Option Bool) (s : State) : State :=
  let pushed := push (lowByte ret) (push (highByte ret) s)
  let marked := pushed.setP (setFlag? pushed.p .b brk)
  (push marked.readP marked).setFlag .i true

/-- Taking an interrupt, shared by NMI, IRQ and BRK: save the context, then load pc from the vector (R458, R459,
45_control_flow.md R303). -/
def enterInterrupt (w : Accessor) (ret : Addr) (brk : Option Bool) (vec : Addr) (s : State) : State :=
  let target := memRead2 w vec (saveContext ret brk s)
  target.2.setPc target.1

/-- Returning from an interrupt: pull P, then pc, low byte first (R462, 45_control_flow.md R302). -/
def returnFromInterrupt (s : State) : State :=
  let p := pull s
  let lo := pull (p.2.writeP p.1)
  let hi := pull lo.2
  hi.2.setPc (word hi.1 lo.1)

/-- The cycles of a service (R472). -/
def serviceCycles : Nat := 7

/-- `ServiceReset()` (R457). The vector reads go through the bus (20_memory.md R73) and do not touch the ACIA (47_acia.md
R382). The 7 cycles are added here (log 23). -/
def serviceReset (s : State) : State :=
  let cleared := s.setLatches false false false
  let regs := (((cleared.setA s.cfg.resetA).setX s.cfg.resetX).setY s.cfg.resetY).setSp s.cfg.resetS
  let target := memRead2 .reset resetVector (regs.writeP s.cfg.resetP)
  (target.2.setPc target.1).addCycles serviceCycles

/-- `ServiceNmi()` (R458): P goes out as it stands. -/
def serviceNmi (s : State) : State :=
  (enterInterrupt .service s.pc none nmiVector
    (s.setLatches s.resetLatch false s.irqLatch)).addCycles serviceCycles

/-- `ServiceIrq()` (R459): B is cleared in P itself. -/
def serviceIrq (s : State) : State :=
  (enterInterrupt .service s.pc (some false) irqVector
    (s.setLatches s.resetLatch s.nmiLatch false)).addCycles serviceCycles

/-- Phase (a) of an iteration: service the highest latched signal, at most one, RESET > NMI > IRQ (R455, R456). -/
def serviceSignals (s : State) : State :=
  if s.resetLatch then serviceReset s
  else if s.nmiLatch then serviceNmi s
  else if s.irqLatch then serviceIrq s
  else s

-- The end of an instruction.

/-- `pc <- target`, charging `cyc` cycles (R455). -/
def jumpTo (w : Addr) (cyc : Nat) (s : State) : State := (s.setPc w).addCycles cyc

/-- `pc <- next`, `next = u16(pc + len)` (00_scope.md R14), charging `cyc` cycles. -/
def advance (len cyc : Nat) (s : State) : State := jumpTo (s.pc + BitVec.ofNat 16 len) cyc s

end Sys2Proof.Machine
end

