-- ==== Sys2Proof/Machine/Operands.lean ====
section
/-!
DEFINITION. The addressing modes (41_addressing.md R170 to R187) and the cycle counts of the operand forms
(70_reset_and_hazards.md R500).
-/

namespace Sys2Proof.Machine

/-- The effective address of a form, with the pointer reads it makes, low byte first (R174 to R182). -/
def resolve (m : Ea) (s : State) : Addr × State :=
  match m with
  | .zp z => (zext z, s)
  | .zpx z => (zext (z + s.x), s)
  | .zpy z => (zext (z + s.y), s)
  | .abs w => (w, s)
  | .absx w => (w + zext s.x, s)
  | .absy w => (w + zext s.y, s)
  | .indx z => readWordZP (z + s.x) s
  | .indy z =>
    let base := readWordZP z s
    (base.1 + zext s.y, base.2)

/-- `Load(mode)` (R184). -/
def load (o : Src) (s : State) : Byte × State :=
  match o with
  | .imm b => (b, s)
  | .mem m =>
    let e := resolve m s
    memRead .instruction e.1 e.2

/-- `Store(mode, v)` (R185): no read of the effective address. -/
def store (m : Ea) (v : Byte) (s : State) : State :=
  let e := resolve m s
  memWrite e.1 v e.2

/-- `Modify(mode, f)` (R186): the accumulator, or one read and then one write of the same address. The ALU's output
comes back for its flags. -/
def modify (f : Byte → AluOut) (d : Place) (s : State) : AluOut × State :=
  match d with
  | .acc => (f s.a, s.setA (f s.a).r)
  | .mem m =>
    let e := resolve m s
    let t := memRead .instruction e.1 e.2
    (f t.1, memWrite e.1 (f t.1).r t.2)

/-- A branch's target: `u16(pc + 2 + sext_16(off8))` (R183). -/
def branchTarget (pc : Addr) (off : Byte) : Addr := pc + 2 + sext off

-- Lengths (30_encoding.md R103).

/-- The length of an instruction with an effective-address operand. -/
def eaLength (m : Ea) : Nat := 1 + m.bytes.length

/-- The length of an instruction with a source operand. -/
def srcLength (o : Src) : Nat := 1 + o.bytes.length

/-- The length of a shift or rotate. -/
def placeLength (d : Place) : Nat := 1 + d.bytes.length

-- Base cycles (70_reset_and_hazards.md R500). No page-crossing cycle exists (R187).

/-- A reading instruction. -/
def eaReadCycles : Ea → Nat
  | .zp _ => 3
  | .zpx _ | .zpy _ | .abs _ | .absx _ | .absy _ => 4
  | .indx _ => 6
  | .indy _ => 5

/-- A reading instruction with a source operand. -/
def srcCycles : Src → Nat
  | .imm _ => 2
  | .mem m => eaReadCycles m

/-- A store. -/
def eaStoreCycles : Ea → Nat
  | .zp _ => 3
  | .zpx _ | .zpy _ | .abs _ => 4
  | .absx _ | .absy _ => 5
  | .indx _ | .indy _ => 6

/-- A read-modify-write instruction. The last four forms do not occur. -/
def eaModifyCycles : Ea → Nat
  | .zp _ => 5
  | .zpx _ | .abs _ => 6
  | .absx _ => 7
  | .zpy _ | .absy _ | .indx _ | .indy _ => 6

/-- A shift or rotate. -/
def placeCycles : Place → Nat
  | .acc => 2
  | .mem m => eaModifyCycles m

end Sys2Proof.Machine
end

