-- ==== Sys2Proof/Machine/Arith.lean ====
section
/-!
DEFINITION. Arithmetic, logic, compare, bit test, increment and decrement (43_arith_logic.md R230 to R244).
-/

namespace Sys2Proof.Machine

/-- An ALU operation on the accumulator: A takes the result, P the flags the operation defines (R230 to R234). -/
def accumulate (f : Byte → AluOut) (o : Src) (s : State) : Result :=
  let v := load o s
  let out := f v.1
  .next (advance (srcLength o) (srcCycles o) ((v.2.setA out.r).applyFlags out.flags))

/-- A compare: flags only (R235 to R237). -/
def compare (r : Byte) (o : Src) (s : State) : Result :=
  let v := load o s
  .next (advance (srcLength o) (srcCycles o) (v.2.applyFlags (aluCmp r v.1)))

/-- A read-modify-write of memory or the accumulator with the flags of the ALU function (R239, R240, R270 to R273). -/
def modifyPlace (f : Byte → AluOut) (d : Place) (s : State) : Result :=
  let t := modify f d s
  .next (advance (placeLength d) (placeCycles d) (t.2.applyFlags t.1.flags))

/-- An increment or decrement of a register (R241 to R244). -/
def stepRegister (set : State → Byte → State) (out : AluOut) (s : State) : Result :=
  .next (advance 1 2 ((set s out.r).applyFlags out.flags))

/-- `ADC` (R230): decimal when P.D is 1, and then V is not written. -/
def execAdc (o : Src) (s : State) : Result :=
  accumulate (fun v => aluAdd (s.flag .d) s.a v (s.flag .c)) o s

/-- `SBC` (R231): decimal when P.D is 1, and then V is not written. -/
def execSbc (o : Src) (s : State) : Result :=
  accumulate (fun v => aluSub (s.flag .d) s.a v (s.flag .c)) o s

/-- `AND` (R232). -/
def execAnd (o : Src) (s : State) : Result := accumulate (aluAnd s.a) o s

/-- `ORA` (R233). -/
def execOra (o : Src) (s : State) : Result := accumulate (aluOr s.a) o s

/-- `EOR` (R234). -/
def execEor (o : Src) (s : State) : Result := accumulate (aluXor s.a) o s

/-- `CMP` (R235). -/
def execCmp (o : Src) (s : State) : Result := compare s.a o s

/-- `CPX` (R236). -/
def execCpx (o : Src) (s : State) : Result := compare s.x o s

/-- `CPY` (R237). -/
def execCpy (o : Src) (s : State) : Result := compare s.y o s

/-- `BIT` (R238). -/
def execBit (m : Ea) (s : State) : Result :=
  let v := load (.mem m) s
  .next (advance (eaLength m) (eaReadCycles m) (v.2.applyFlags (bitFlags s.a v.1)))

/-- `INC` (R239). -/
def execInc (m : Ea) (s : State) : Result := modifyPlace aluInc (.mem m) s

/-- `DEC` (R240). -/
def execDec (m : Ea) (s : State) : Result := modifyPlace aluDec (.mem m) s

/-- `INX` (R241). -/
def execInx (s : State) : Result := stepRegister State.setX (aluInc s.x) s

/-- `INY` (R242). -/
def execIny (s : State) : Result := stepRegister State.setY (aluInc s.y) s

/-- `DEX` (R243). -/
def execDex (s : State) : Result := stepRegister State.setX (aluDec s.x) s

/-- `DEY` (R244). -/
def execDey (s : State) : Result := stepRegister State.setY (aluDec s.y) s

end Sys2Proof.Machine
end

