-- ==== Sys2Proof/Machine/Control.lean ====
section
/-!
DEFINITION. Branches, jumps, subroutine call and return, BRK and RTI (45_control_flow.md R290 to R303).
-/

namespace Sys2Proof.Machine

/-- The common form of the conditional branches (R290): 2 base cycles, 1 more when taken. -/
def branch (taken : Bool) (off : Byte) (s : State) : Result :=
  .next (if taken then jumpTo (branchTarget s.pc off) 3 s else advance 2 2 s)

/-- `BCC` (R291). -/
def execBcc (off : Byte) (s : State) : Result := branch (!s.flag .c) off s

/-- `BCS` (R292). -/
def execBcs (off : Byte) (s : State) : Result := branch (s.flag .c) off s

/-- `BEQ` (R293). -/
def execBeq (off : Byte) (s : State) : Result := branch (s.flag .z) off s

/-- `BMI` (R294). -/
def execBmi (off : Byte) (s : State) : Result := branch (s.flag .n) off s

/-- `BNE` (R295). -/
def execBne (off : Byte) (s : State) : Result := branch (!s.flag .z) off s

/-- `BPL` (R296). -/
def execBpl (off : Byte) (s : State) : Result := branch (!s.flag .n) off s

/-- `BVC` (R297). -/
def execBvc (off : Byte) (s : State) : Result := branch (!s.flag .v) off s

/-- `BVS` (R298). -/
def execBvs (off : Byte) (s : State) : Result := branch (s.flag .v) off s

/-- `JMP` (R299): the indirect pointer's high byte is read at the next address of the 64 KB space (R180). -/
def execJmp (t : Target) (s : State) : Result :=
  match t with
  | .abs w => .next (jumpTo w 3 s)
  | .ind w =>
    let target := memRead2 .instruction w s
    .next (jumpTo target.1 5 target.2)

/-- `JSR` (R300): the address of its last byte is pushed, high byte first. -/
def execJsr (w : Addr) (s : State) : Result :=
  let ret := s.pc + 2
  .next (jumpTo w 6 (push (lowByte ret) (push (highByte ret) s)))

/-- `RTS` (R301): 1 is added to the pulled address. -/
def execRts (s : State) : Result :=
  let lo := pull s
  let hi := pull lo.2
  .next (jumpTo (word hi.1 lo.1 + 1) 6 hi.2)

/-- `RTI` (R302): no 1 is added. -/
def execRti (s : State) : Result := .next ((returnFromInterrupt s).addCycles 6)

/-- `BRK` (R303): the return address skips the padding byte; I is not tested, and no latch is touched (R460). -/
def execBrk (s : State) : Result :=
  .next ((enterInterrupt .instruction (s.pc + 2) (some true) irqVector s).addCycles 7)

end Sys2Proof.Machine
end

