-- ==== Sys2Proof/Machine/LoadStore.lean ====
section
/-!
DEFINITION. Loads, stores and register transfers (42_load_store_transfer.md R200 to R211).
-/

namespace Sys2Proof.Machine

/-- A load: the register takes the source byte, N and Z follow it, pc goes on (R200 to R202). -/
def loadInto (set : State → Byte → State) (o : Src) (s : State) : Result :=
  let v := load o s
  .next (advance (srcLength o) (srcCycles o) ((set v.2 v.1).setNZ v.1))

/-- A store: the register's byte goes to the effective address, no flag changes (R203 to R205). -/
def storeFrom (v : Byte) (m : Ea) (s : State) : Result :=
  .next (advance (eaLength m) (eaStoreCycles m) (store m v s))

/-- A transfer that sets N and Z from the byte moved (R206 to R210). -/
def transfer (set : State → Byte → State) (v : Byte) (s : State) : Result :=
  .next (advance 1 2 ((set s v).setNZ v))

/-- `LDA` (R200). -/
def execLda (o : Src) (s : State) : Result := loadInto State.setA o s

/-- `LDX` (R201). -/
def execLdx (o : Src) (s : State) : Result := loadInto State.setX o s

/-- `LDY` (R202). -/
def execLdy (o : Src) (s : State) : Result := loadInto State.setY o s

/-- `STA` (R203). -/
def execSta (m : Ea) (s : State) : Result := storeFrom s.a m s

/-- `STX` (R204). -/
def execStx (m : Ea) (s : State) : Result := storeFrom s.x m s

/-- `STY` (R205). -/
def execSty (m : Ea) (s : State) : Result := storeFrom s.y m s

/-- `TAX` (R206). -/
def execTax (s : State) : Result := transfer State.setX s.a s

/-- `TAY` (R207). -/
def execTay (s : State) : Result := transfer State.setY s.a s

/-- `TXA` (R208). -/
def execTxa (s : State) : Result := transfer State.setA s.x s

/-- `TYA` (R209). -/
def execTya (s : State) : Result := transfer State.setA s.y s

/-- `TSX` (R210). -/
def execTsx (s : State) : Result := transfer State.setX s.sp s

/-- `TXS` (R211): the only transfer that writes no flag. -/
def execTxs (s : State) : Result := .next (advance 1 2 (s.setSp s.x))

end Sys2Proof.Machine
end

