-- ==== Sys2Proof/Machine/Misc.lean ====
section
/-!
DEFINITION. Stack, flag, no-op, undefined and simulator instructions (46_stack_flags_misc.md R320 to R334).
-/

namespace Sys2Proof.Machine

/-- `PHA` (R320). -/
def execPha (s : State) : Result := .next (advance 1 3 (push s.a s))

/-- `PHP` (R321): the pushed byte has bits 4 and 5 set, P itself is unchanged. -/
def execPhp (s : State) : Result := .next (advance 1 3 (push (s.p ||| 0x30) s))

/-- `PLA` (R322). -/
def execPla (s : State) : Result :=
  let v := pull s
  .next (advance 1 4 ((v.2.setA v.1).setNZ v.1))

/-- `PLP` (R323): all of P but bit 5 is loaded. -/
def execPlp (s : State) : Result :=
  let v := pull s
  .next (advance 1 4 (v.2.writeP v.1))

/-- `CLC` (R324). -/
def execClc (s : State) : Result := .next (advance 1 2 (s.setFlag .c false))

/-- `CLD` (R325). -/
def execCld (s : State) : Result := .next (advance 1 2 (s.setFlag .d false))

/-- `CLI` (R326). -/
def execCli (s : State) : Result := .next (advance 1 2 (s.setFlag .i false))

/-- `CLV` (R327). -/
def execClv (s : State) : Result := .next (advance 1 2 (s.setFlag .v false))

/-- `SEC` (R328). -/
def execSec (s : State) : Result := .next (advance 1 2 (s.setFlag .c true))

/-- `SED` (R329). -/
def execSed (s : State) : Result := .next (advance 1 2 (s.setFlag .d true))

/-- `SEI` (R330). -/
def execSei (s : State) : Result := .next (advance 1 2 (s.setFlag .i true))

/-- `NOP` (R331). -/
def execNop (s : State) : Result := .next (advance 1 2 s)

/-- `UNDEF` (R332): a 1-byte, 6-cycle no-op, whatever the byte. -/
def execUndef (_op : Byte) (s : State) : Result := .next (advance 1 6 s)

/-- `HALT` (R333): pc goes on, then the CPU halts. -/
def execHalt (s : State) : Result := .next ((advance 1 s.cfg.haltCycles s).setHalted true)

/-- `DEBUG #sel` (R334): an accepted selector is an event and pc goes on; any other leaves pc at the DEBUG. -/
def execDebug (sel : Byte) (s : State) : Result :=
  .next
    (if s.cfg.debugSelectors.contains sel then
      advance 2 s.cfg.debugCycles (s.emit (.debugCallback sel))
    else jumpTo s.pc s.cfg.debugCycles s)

end Sys2Proof.Machine
end

