-- ==== Sys2Proof/Machine/Shift.lean ====
section
/-!
DEFINITION. Shifts and rotates (44_shift_rotate.md R270 to R273), each by one bit.
-/

namespace Sys2Proof.Machine

/-- `ASL` (R270). -/
def execAsl (d : Place) (s : State) : Result := modifyPlace aluShl d s

/-- `LSR` (R271). -/
def execLsr (d : Place) (s : State) : Result := modifyPlace aluShr d s

/-- `ROL` (R272): the carry-in is P.C before the instruction. -/
def execRol (d : Place) (s : State) : Result := modifyPlace (fun v => aluRol v (s.flag .c)) d s

/-- `ROR` (R273): the carry-in is P.C before the instruction. -/
def execRor (d : Place) (s : State) : Result := modifyPlace (fun v => aluRor v (s.flag .c)) d s

end Sys2Proof.Machine
end

