-- ==== Sys2Proof/Machine/Fetch.lean ====
section
/-!
DEFINITION. Fetching an instruction (20_memory.md R81, R84), and placing one where the next step fetches.
-/

namespace Sys2Proof.Machine

/-- With the trace sink on, one event for each executed instruction (60_exceptions.md R470). -/
def noteTrace (s : State) : State :=
  { s with events := if s.traceOn then .traced :: s.events else s.events }

/-- The opcode fetch, then as many operand bytes as the opcode asks for, one access each (R84), decoded. -/
def fetch (s : State) : Instr × State :=
  let op := memRead .instruction s.pc s
  let len := opcodeLength s.cfg op.1
  if len ≤ 1 then (decodeOp s.cfg op.1 0 0, noteTrace op.2)
  else
    let b1 := memRead .instruction (s.pc + 1) op.2
    if len ≤ 2 then (decodeOp s.cfg op.1 b1.1 0, noteTrace b1.2)
    else
      let b2 := memRead .instruction (s.pc + 2) b1.2
      (decodeOp s.cfg op.1 b1.1 b2.1, noteTrace b2.2)

/-- The address is held by RAM or ROM. -/
def State.isStorage (s : State) (a : Addr) : Bool :=
  match s.kindAt a with
  | some .ram => true
  | some .rom => true
  | _ => false

/-- Put bytes into memory at consecutive addresses, as a loader would: no bus access. -/
def pokeBytes : List Byte → Addr → State → State
  | [], _, s => s
  | v :: vs, a, s => pokeBytes vs (a + 1) (s.setMem (memSet s.mem a.toNat v))

/-- The bytes stand at consecutive addresses, all of them RAM or ROM. -/
def holdsBytes : List Byte → Addr → State → Bool
  | [], _, _ => true
  | v :: vs, a, s => s.isStorage a && s.traceRead a == v && holdsBytes vs (a + 1) s

/-- Map the blocks of three consecutive addresses to RAM. -/
def mapRamAt (a : Addr) (s : State) : State :=
  { s with
    cfg :=
      { s.cfg with
        regionTable := s.cfg.regionTable ++
          [⟨.ram, 256 * (highByte a).toNat, 1⟩, ⟨.ram, 256 * (highByte (a + 2)).toNat, 1⟩] } }

/-- Bytes placed where the next step fetches (log 16): the CPU is awake, and the bytes stand at the pc that phase (a)
of the next iteration leaves. Where that is no memory, or the service would change it, the latches are cleared and the
bytes stand at pc, in RAM. -/
def placeInstruction (bs : List Byte) (s : State) : State :=
  let awake : State := { s with halted := false, stopRequested := false }
  let at' := (serviceSignals awake).pc
  let placed := pokeBytes bs at' awake
  let served := serviceSignals placed
  if served.pc == at' && holdsBytes bs at' served then placed
  else pokeBytes bs awake.pc (mapRamAt awake.pc (awake.setLatches false false false))

end Sys2Proof.Machine
end

