-- ==== Sys2Proof/Machine/Step.lean ====
section
/-!
DEFINITION. One step of the machine: one iteration of the CPU loop (60_exceptions.md R455), or an idle step.
-/

namespace Sys2Proof.Machine

/-- The CPU takes no iteration: it is halted and waits for the host, or it has been stopped (R468, R469). -/
def State.idle (s : State) : Bool := s.halted || s.stopRequested

/-- One iteration: at most one service, then exactly one instruction (R455). A halted or stopped CPU takes no step of
its own; time passes and the ACIA worker may act (R374, R466; log 13). -/
def step (s : State) : Host.Outcome State Fault Refusal :=
  if s.idle then .next (gap s)
  else
    let f := fetch (serviceSignals s)
    exec f.1 f.2

/-- The state with an instruction word placed where the next step fetches (log 16). -/
def State.withFetchWord (s : State) (nbits w : Nat) : State := placeInstruction (tableBytes nbits w) s

end Sys2Proof.Machine
end

