-- ==== Sys2Proof/Machine/TapeDecoder.lean ====
section
/-!
DEFINITION. The tape decoder (48_tape_codec.md R409 to R420): samples, cycle boundaries, classification, bits, bytes.
-/

namespace Sys2Proof.Machine

-- Input (R409).

/-- The bytes of a sample width. -/
def depthBytes : BitDepth → Nat
  | .eight => 1
  | .sixteen => 2

/-- The first sample of a frame, two's complement, most significant byte first. -/
def firstSample (d : BitDepth) (bs : List Byte) : Int :=
  match d, bs with
  | .eight, b :: _ => b.toInt
  | .sixteen, hi :: lo :: _ => (word hi lo).toInt
  | _, _ => 0

/-- The first channel's samples of a stream with frames of `width` bytes; a partial frame at the end is ignored. The
first argument bounds the number of frames. -/
def frameSamples (d : BitDepth) (width : Nat) : Nat → List Byte → List Int
  | 0, _ => []
  | k + 1, bs =>
    if bs.length < width then []
    else firstSample d bs :: frameSamples d width k (bs.drop width)

/-- Samples are read inverted (R410). -/
def inverted : Phase → Bool
  | .deg0 | .deg90 => false
  | .deg180 | .deg270 => true

/-- Boundaries are peaks (R410). -/
def byPeaks : Phase → Bool
  | .deg0 | .deg180 => false
  | .deg90 | .deg270 => true

/-- The sample sequence of a stream, after any inversion (R409, R410). -/
def inputSamples (c : Config) (stream : List Byte) : List Int :=
  let width := c.inChannels * depthBytes c.inBitDepth
  let xs := frameSamples c.inBitDepth width stream.length stream
  if inverted c.phase then xs.map fun v => -v else xs

/-- The start of a decode session (R414). -/
def startSession (c : Config) (stream : List Byte) : Session where
  countHi := (c.sampleRate : Rat) / c.markFreq
  countLo := 2 * ((c.sampleRate : Rat) / c.markFreq)
  runClass := .mark
  runCount := 0
  prevSample := none
  peakState := .seekNeg
  nextIndex := 0
  lastBoundary := none
  ended := false
  input := inputSamples c stream

-- Cycle boundaries (R411 to R413).

/-- A rising zero crossing between a sample and the next (R411). -/
def risesAt (u v : Int) : Bool := decide (u < 0) && decide (0 ≤ v)

/-- A rising zero crossing at a sample; never at the first one (R411). -/
def zeroCrossing (d : Session) (v : Int) : Bool :=
  match d.prevSample with
  | some u => risesAt u v
  | none => false

/-- A peak at a sample, by the sample after it (R412). -/
def peakAt (d : Session) (v : Int) (after : List Int) : Bool :=
  match d.peakState, after with
  | .seekPeak, u :: _ => decide (0 < v) && decide (u < v)
  | _, _ => false

/-- The peak detector after a sample that `hit` says is a boundary or not (R412). -/
def nextPeakState (d : Session) (v : Int) (hit : Bool) : PeakState :=
  match d.peakState with
  | .seekNeg => if v < 0 then .seekPeak else .seekNeg
  | .seekPeak => if hit then .seekNeg else .seekPeak

/-- Read samples up to the next boundary; none if the input ends before one. -/
def scan (peaks : Bool) : List Int → Session → Option Nat × Session
  | [], d => (none, { d with input := [] })
  | v :: rest, d =>
    let hit := if peaks then peakAt d v rest else zeroCrossing d v
    let d' : Session :=
      { d with
        input := rest
        prevSample := some v
        peakState := nextPeakState d v hit
        nextIndex := d.nextIndex + 1 }
    if hit then (some d.nextIndex, d') else scan peaks rest d'

/-- Read up to the next boundary and remember it. -/
def nextBoundary (c : Config) (d : Session) : Option Nat × Session :=
  match scan (byPeaks c.phase) d.input d with
  | (some i, d') => (some i, { d' with lastBoundary := some i })
  | (none, d') => (none, d')

/-- The length of the next measured cycle, or EOD (R413). The samples before the first boundary belong to none. -/
def nextCycle (c : Config) (d : Session) : Option Nat × Session :=
  match d.lastBoundary with
  | some i =>
    match nextBoundary c d with
    | (some j, d') => (some (j - i), d')
    | (none, d') => (none, d')
  | none =>
    match nextBoundary c d with
    | (none, d') => (none, d')
    | (some i, d') =>
      match nextBoundary c d' with
      | (some j, d'') => (some (j - i), d'')
      | (none, d'') => (none, d'')

-- Classification (R415, R416).

/-- The distance of a measured length from an expected one. -/
def distance (n : Nat) (e : Rat) : Rat := if (n : Rat) < e then e - n else n - e

/-- The class of a cycle of length `n` (R415). -/
def classify (d : Session) (n : Nat) : Tone :=
  if distance n d.countLo < distance n d.countHi ∧ distance n d.countLo < d.countLo / 2 then .space
  else .mark

/-- The adaptive update after a classification (R416). -/
def adapt (adaptive : Bool) (d : Session) (n : Nat) : Session :=
  if adaptive then
    match classify d n with
    | .space =>
      { d with countLo := (3 * d.countLo + n) / 4, countHi := (3 * d.countLo + n) / 4 / 2 }
    | .mark =>
      if distance n d.countHi < d.countHi / 2 then
        { d with countHi := (3 * d.countHi + n) / 4, countLo := 2 * ((3 * d.countHi + n) / 4) }
      else d
  else d

-- Bits and bytes (R417 to R419).

/-- `need(class)`: cycles in a bit (R417). -/
def need (c : Config) : Tone → Nat
  | .mark => c.markCycles
  | .space => c.markCycles / 2

/-- The value of a bit of a class. -/
def toneBit : Tone → Bool
  | .mark => true
  | .space => false

/-- One classified cycle's effect on the run state, and the bit it completes, if any (R417). -/
def runCycle (c : Config) (t : Tone) (d : Session) : Option Bool × Session :=
  let count := if t = d.runClass then d.runCount + 1 else 1
  if count = need c t then (some (toneBit t), { d with runClass := t, runCount := 0 })
  else (none, { d with runClass := t, runCount := count })

/-- The next bit, or EOD, which drops a partial run. The first argument bounds the number of cycles read. -/
def nextBitWithin (c : Config) : Nat → Session → Option Bool × Session
  | 0, d => (none, d)
  | k + 1, d =>
    match nextCycle c d with
    | (none, d') => (none, { d' with runCount := 0 })
    | (some n, d') =>
      match runCycle c (classify d' n) (adapt c.adaptive d' n) with
      | (some b, d'') => (some b, d'')
      | (none, d'') => nextBitWithin c k d''

/-- The next bit: a cycle takes at least one sample, so the samples left bound the cycles. -/
def nextBit (c : Config) (d : Session) : Option Bool × Session :=
  nextBitWithin c (d.input.length + 1) d

/-- Read bits up to the start bit; false if the input ends first. The first argument bounds the number of bits. -/
def seekStart (c : Config) : Nat → Session → Bool × Session
  | 0, d => (false, d)
  | k + 1, d =>
    match nextBit c d with
    | (none, d') => (false, d')
    | (some false, d') => (true, d')
    | (some true, d') => seekStart c k d'

/-- Read `k` data bits, the first of them bit `i`, into `b`; none if the input ends first. -/
def dataBits (c : Config) : Nat → Nat → Byte → Session → Option Byte × Session
  | 0, _, b, d => (some b, d)
  | k + 1, i, b, d =>
    match nextBit c d with
    | (none, d') => (none, d')
    | (some bit, d') => dataBits c k (i + 1) (if bit then b ||| (1#8 <<< i) else b) d'

/-- Read and discard up to `k` stop bits. -/
def stopBits (c : Config) : Nat → Session → Session
  | 0, d => d
  | k + 1, d =>
    match nextBit c d with
    | (none, d') => d'
    | (some _, d') => stopBits c k d'

/-- A session whose byte reader has answered EOD (R419). -/
def endSession (d : Session) : Session := { d with ended := true, input := [] }

/-- The byte reader: the next byte, or EOD (R418, R419). -/
def nextByte (c : Config) (d : Session) : Option Byte × Session :=
  if d.ended then (none, d)
  else
    match seekStart c (d.input.length + 1) d with
    | (false, d') => (none, endSession d')
    | (true, d') =>
      match dataBits c 8 0 0x00 d' with
      | (none, d'') => (none, endSession d'')
      | (some b, d'') => (some b, stopBits c 2 d'')

/-- Bytes until EOD. The first argument bounds their number. -/
def readBytes (c : Config) : Nat → Session → List Byte
  | 0, _ => []
  | k + 1, d =>
    match nextByte c d with
    | (none, _) => []
    | (some b, d') => b :: readBytes c k d'

/-- `decode(samples)` (R419): the bytes of a stream before EOD. -/
def decodeTape (c : Config) (stream : List Byte) : List Byte :=
  readBytes c (stream.length + 1) (startSession c stream)

end Sys2Proof.Machine
end

