-- ==== Sys2Proof/Machine/TapeEncoder.lean ====
section
/-!
DEFINITION. The tape encoder (48_tape_codec.md R400 to R408), for any shape of a tone cycle; Machine/Waveform.lean gives
the two shapes of the spec.
-/

namespace Sys2Proof.Machine

/-- `round_half_up` of a rational. -/
def roundHalfUp (q : Rat) : Int := (q + 1 / 2).floor

/-- `Lm`: samples in one rendered mark cycle (R401). -/
def markSamples (c : Config) : Nat := (roundHalfUp ((c.sampleRate : Rat) / c.markFreq)).toNat

/-- `Ls`: samples in one rendered space cycle (R401). -/
def spaceSamples (c : Config) : Nat := 2 * markSamples c

/-- `Amax`: full-scale sample magnitude (R401). -/
def amax : BitDepth → Nat
  | .eight => 127
  | .sixteen => 32767

/-- `baud`: bits per second (R401). -/
def baud (c : Config) : Rat := c.markFreq / c.markCycles

/-- `frame(b)`: a start bit 0, the data bits least significant first, two stop bits 1 (R402). -/
def frame (b : Byte) : List Bool :=
  [false, b.getLsbD 0, b.getLsbD 1, b.getLsbD 2, b.getLsbD 3, b.getLsbD 4, b.getLsbD 5, b.getLsbD 6,
   b.getLsbD 7, true, true]

/-- A bit as samples: M mark cycles, or M/2 space cycles (R403). `cycle L` is a tone cycle of L samples. -/
def renderBit (c : Config) (cycle : Nat → List Int) (bit : Bool) : List Int :=
  if bit then (List.replicate c.markCycles (cycle (markSamples c))).flatten
  else (List.replicate (c.markCycles / 2) (cycle (spaceSamples c))).flatten

/-- The bytes of one sample, two's complement, most significant first (R406). -/
def sampleBytes (d : BitDepth) (v : Int) : List Byte :=
  match d with
  | .eight => [BitVec.ofInt 8 v]
  | .sixteen => [highByte (BitVec.ofInt 16 v), lowByte (BitVec.ofInt 16 v)]

/-- One output frame: the same sample in every channel (R406). -/
def frameBytes (c : Config) (v : Int) : List Byte :=
  (List.replicate c.channels (sampleBytes c.bitDepth v)).flatten

/-- Mark bits in a run of the given duration, rounded up (R407). -/
def leadBits (c : Config) (seconds : Rat) : Nat := (seconds * baud c).ceil.toNat

/-- The bits of a stream: lead-in, frames, lead-out (R408). -/
def streamBits (c : Config) (bytes : List Byte) : List Bool :=
  List.replicate (leadBits c c.leadInSeconds) true ++ (bytes.map frame).flatten ++
    List.replicate (leadBits c c.leadOutSeconds) true

/-- The samples of a stream (R408). -/
def streamSamples (c : Config) (cycle : Nat → List Int) (bytes : List Byte) : List Int :=
  ((streamBits c bytes).map (renderBit c cycle)).flatten

/-- `encode(bytes)` with a given cycle shape (R408): a pure function of its parameters. -/
def encodeWith (c : Config) (cycle : Nat → List Int) (bytes : List Byte) : List Byte :=
  ((streamSamples c cycle bytes).map (frameBytes c)).flatten

end Sys2Proof.Machine
end

