-- ==== Sys2Proof/Machine/RoundTrip.lean ====
section
/-!
DEFINITION. The condition under which the tape round trip holds for a shaped tone cycle (48_tape_codec.md R421): what a
cycle's samples must be, and what lengths the decoder then measures. Each definition is for any shape of a cycle, as
`encodeWith` is.
-/

namespace Sys2Proof.Machine

/-- The boundaries of R411 in the samples of a cycle, each as the sample's index within the cycle: `prev` is the sample
before the cycle and `i` the index of the cycle's first sample here. -/
def crossings (prev : Int) (i : Nat) : List Int → List Nat
  | [] => []
  | v :: vs => if risesAt prev v then i :: crossings v (i + 1) vs else crossings v (i + 1) vs

/-- The last sample of a cycle. -/
def lastSample (xs : List Int) : Int := xs.getLast?.getD 0

/-- A cycle of `len` samples contains exactly one boundary, at the index `d` within it, after a cycle of either tone
(R421: "also counting the join with the next cycle of either tone"). -/
def OneBoundary (c : Config) (cycle : Nat → List Int) (len d : Nat) : Prop :=
  ∀ before ∈ [markSamples c, spaceSamples c],
    crossings (lastSample (cycle before)) 0 (cycle len) = [d]

/-- The lengths a cycle of `len` samples measures, its one boundary at `d` and that of the other tone at `d'`: before a
cycle of its own tone, and before one of the other (R421). -/
def ownedLengths (len d d' : Nat) : List Nat := [len, len - d + d']

/-- The ends of the range H and what lies between them: the expected mark count at the start and, with adaptive tracking,
what each measured length moves it towards (R421). -/
def countTargets (c : Config) (markLengths spaceLengths : List Nat) : List Rat :=
  ((c.sampleRate : Rat) / c.markFreq) ::
    (if c.adaptive then
      markLengths.map (fun (n : Nat) => (n : Rat)) ++ spaceLengths.map fun (n : Nat) => (n : Rat) / 2
    else [])

/-- `q` lies in the range from the least to the greatest of a list. -/
def Within (xs : List Rat) (q : Rat) : Prop := (∃ lo ∈ xs, lo ≤ q) ∧ ∃ hi ∈ xs, q ≤ hi

/-- The lengths of both tones are classified as their own tone at the expected mark count `q` (R415, R421). -/
def Separates (markLengths spaceLengths : List Nat) (q : Rat) : Prop :=
  (∀ n ∈ markLengths, (n : Rat) ≤ 3 / 2 * q ∨ 3 * q ≤ n) ∧
    ∀ n ∈ spaceLengths, 3 / 2 * q < n ∧ (n : Rat) < 3 * q

/-- The condition of R421 on the samples of a shaped cycle: one boundary in each cycle, and every length the cycles of a
tone can measure classified as that tone at every expected mark count that the decoder can reach. -/
def RoundTripCondition (c : Config) (cycle : Nat → List Int) : Prop :=
  ∃ dm ds, OneBoundary c cycle (markSamples c) dm ∧ OneBoundary c cycle (spaceSamples c) ds ∧
    ∀ q, Within (countTargets c (ownedLengths (markSamples c) dm ds) (ownedLengths (spaceSamples c) ds dm)) q →
      Separates (ownedLengths (markSamples c) dm ds) (ownedLengths (spaceSamples c) ds dm) q

end Sys2Proof.Machine
end

