-- ==== Sys2Proof/Machine/Waveform.lean ====
section
/-!
DEFINITION. The two tone cycles of the encoder, exactly as 48_tape_codec.md R404 and R405 write them, over the real
numbers (log 19: not computable, and nothing the CPU does uses them), and `encode` with them.
-/

namespace Sys2Proof.Machine

/-- `round_half_away`: to the nearest integer, halves away from zero (R404). -/
noncomputable def roundHalfAway (r : ℝ) : Int := if 0 ≤ r then ⌊r + 1 / 2⌋ else -⌊-r + 1 / 2⌋

/-- A sine cycle of `len` samples at full scale `a` (R404). -/
noncomputable def sineCycle (a len : Nat) : List Int :=
  (List.range len).map fun (k : Nat) => roundHalfAway (a * Real.sin (2 * Real.pi * k / len))

/-- A hardware cycle of `len` samples with shape `wave` (R405). -/
noncomputable def hardwareCycle (wave : ℝ → ℝ) (a len : Nat) : List Int :=
  (List.range len).map fun (k : Nat) => roundHalfAway (a * wave (k / len))

/-- The default `hwWave` with time constant `tau` (R405): the steady-state response of an RC filter to a square wave,
scaled to a peak of 1. -/
noncomputable def defaultHwWave (tau t : ℝ) : ℝ :=
  let peak := Real.tanh (1 / (2 * tau) / 2)
  (if t < 1 / 2 then 1 - (1 + peak) * Real.exp (-t / tau)
   else -1 + (1 + peak) * Real.exp (-(t - 1 / 2) / tau)) / peak

/-- The tone cycle the configuration selects; `wave` is the OPEN parameter `hwWave`. -/
noncomputable def toneCycle (c : Config) (wave : ℝ → ℝ) : Nat → List Int :=
  match c.waveform with
  | .sine => sineCycle (amax c.bitDepth)
  | .hardware => hardwareCycle wave (amax c.bitDepth)

/-- What R405 asks of a hardware shape: it maps [0, 1) into [-1, 1]. -/
def HardwareShape (wave : ℝ → ℝ) : Prop := ∀ t, 0 ≤ t → t < 1 → |wave t| ≤ 1

/-- `encode(bytes)` (R408) with the OPEN hardware shape `wave`. -/
noncomputable def encodeTape (c : Config) (wave : ℝ → ℝ) (bytes : List Byte) : List Byte :=
  encodeWith c (toneCycle c wave) bytes

/-- `encode(bytes)` with the default hardware shape of R405. -/
noncomputable def encodeTapeDefault (c : Config) (bytes : List Byte) : List Byte :=
  encodeTape c (defaultHwWave c.hwTau) bytes

end Sys2Proof.Machine
end

