-- ==== Sys2Proof/Machine/HostOps.lean ====
section
/-!
DEFINITION. The host's operations (60_exceptions.md R467), each between two iterations (R451). `traceRead` is
`State.traceRead`, `encode` is `encodeTape`; none of them changes state.
-/

namespace Sys2Proof.Machine

/-- The operations by which the host acts on the core (R467). -/
inductive HostOp
  | raiseReset
  | raiseNmi
  | raiseIrq
  | wake
  | stop
  | setClockMHz (m : Rat)
  | setTraceSink (on : Bool)
  | attachTxPeer
  | detachTxPeer
  | attachRxPeer
  | detachRxPeer
  /-- start a decode session on a stream (48_tape_codec.md R414) -/
  | tapeStart (stream : List Byte)
  /-- ask the decode session for a byte (R418) -/
  | tapeRead
deriving DecidableEq, Repr

/-- `raiseReset()` (R452). -/
def raiseReset (s : State) : State := s.setLatches true s.nmiLatch s.irqLatch

/-- `raiseNmi()` (R453): whatever I is. -/
def raiseNmi (s : State) : State := s.setLatches s.resetLatch true s.irqLatch

/-- `raiseIrq()` (R454): a no-op while I is set. -/
def raiseIrq (s : State) : State :=
  if s.flag .i then s else s.setLatches s.resetLatch s.nmiLatch true

/-- `wake()` (R468). -/
def wake (s : State) : State := s.setHalted false

/-- `stop()` (R469): nothing takes it back. -/
def stop (s : State) : State := { s with stopRequested := true }

/-- `getClockMHz()` (R467). -/
def getClockMHz (s : State) : Rat := s.clockMHz

/-- A host operation. -/
def hostAct : HostOp → State → State
  | .raiseReset, s => raiseReset s
  | .raiseNmi, s => raiseNmi s
  | .raiseIrq, s => raiseIrq s
  | .wake, s => wake s
  | .stop, s => stop s
  | .setClockMHz m, s => { s with clockMHz := m }
  | .setTraceSink on, s => { s with traceOn := on }
  | .attachTxPeer, s => s.setAcia { s.acia with txPeer := true }
  | .detachTxPeer, s => s.setAcia { s.acia with txPeer := false }
  | .attachRxPeer, s => s.setAcia { s.acia with rxPeer := true }
  | .detachRxPeer, s => s.setAcia { s.acia with rxPeer := false }
  | .tapeStart stream, s => s.setTape (startSession s.cfg stream)
  | .tapeRead, s =>
    let r := nextByte s.cfg s.tape
    (s.setTape r.2).emit (.tapeByte r.1)

end Sys2Proof.Machine
end

