-- ==== Sys2Proof/Machine/Agents.lean ====
section
/-!
DEFINITION. The agents of the machine and their moves (60_exceptions.md R466): a run is any interleaving of them.
-/

namespace Sys2Proof.Machine

/-- A move of an agent (R466). -/
inductive Move
  /-- the CPU: one iteration -/
  | cpu
  /-- the ACIA worker: one step, between iterations -/
  | worker (m : WorkerMove)
  /-- the host: one operation -/
  | host (op : HostOp)
deriving DecidableEq, Repr

/-- A worker step on the machine; one that is not enabled changes nothing (47_acia.md R369). -/
def workerAct (m : WorkerMove) (s : State) : State :=
  { s with
    acia := (workerStep m (s.acia, s.events)).1
    events := (workerStep m (s.acia, s.events)).2 }

/-- One move. -/
def act : Move → State → Result
  | .cpu, s => step s
  | .worker m, s => .next (workerAct m s)
  | .host op, s => .next (hostAct op s)

/-- Moves one after another, ending at the first fault or refusal. -/
def runMoves : List Move → State → Result
  | [], s => .next s
  | m :: ms, s =>
    match act m s with
    | .next t => runMoves ms t
    | .fault r => .fault r
    | .refused r => .refused r

end Sys2Proof.Machine
end

