-- ==== Sys2Proof/Machine/PowerOn.lean ====
section
/-!
DEFINITION. The machine's constructor (70_reset_and_hazards.md R490, R497): the regions are registered in order with
their contents, or a configuration fault says why there is no machine.
-/

namespace Sys2Proof.Machine

/-- The contents a region is registered with: a ROM's image, a RAM's initial bytes (`romImages`, `ramInit`); none where
nothing was given. -/
abbrev Contents := Option (List Byte)

/-- What is wrong with one region and its contents (R497). -/
def regionFault (r : Region) (bytes : Contents) : Option Fault :=
  match r.kind, bytes with
  | .rom, none => some .romImageMissing
  | .rom, some image =>
    if image.length ≠ 256 * r.blockCount then some .romImageLength else spanFault r
  | _, _ => spanFault r
where
  /-- A base that is no block boundary, no block at all, or a span past 0xFFFF. -/
  spanFault (r : Region) : Option Fault :=
    if r.baseAddr % 256 ≠ 0 then some .regionUnaligned
    else if r.blockCount = 0 ∨ 256 < baseBlock r + r.blockCount then some .regionSpan
    else none

/-- The first fault of the regions, in order. -/
def regionsFault : List Region → List Contents → Option Fault
  | [], _ => none
  | r :: rs, cs =>
    match regionFault r cs.head?.join with
    | some f => some f
    | none => regionsFault rs cs.tail

/-- The configuration fault of a machine, if it has one (R497). -/
def configFault (c : Config) (contents : List Contents) : Option Fault :=
  match regionsFault c.regionTable contents with
  | some f => some f
  | none =>
    if (c.regionTable.filter fun r => r.kind = .acia).length ≠ 1 then some .aciaCount else none

/-- The bytes a region brings: its contents for RAM and ROM, none for a device. -/
def regionBytes (r : Region) (bytes : Contents) : List Byte :=
  match r.kind with
  | .ram => (bytes.getD []).take (256 * r.blockCount)
  | .rom => (bytes.getD []).take (256 * r.blockCount)
  | .acia => []
  | .device => []

/-- Register one region: its span is its own from now on (20_memory.md R62; log 20). -/
def registerBytes (r : Region) (bytes : Contents) (m : Mem) : Mem :=
  memSetList (memErase m (256 * baseBlock r) (256 * (baseBlock r + r.blockCount)))
    (256 * baseBlock r) (regionBytes r bytes)

/-- Memory after registering the regions in order. -/
def registerAll : List Region → List Contents → Mem → Mem
  | [], _, m => m
  | r :: rs, cs, m => registerAll rs cs.tail (registerBytes r cs.head?.join m)

/-- Machine construction (R490): an error where the configuration is at fault, else the machine at power-on. -/
def powerOn (c : Config) (contents : List Contents) : Except Fault State :=
  match configFault c contents with
  | some f => .error f
  | none => .ok (State.powerOn c (registerAll c.regionTable contents []))

end Sys2Proof.Machine
end

