-- ==== Sys2Proof/Safety.lean ====
section
/-!
DEFINITION. What the statements about the machine are written with: the invariant of the machine, what a run is, and
what an instruction leaves alone.
-/

namespace Sys2Proof.Machine

/-- TDRE says that no byte is pending, and where it is 0 a byte is pending or in flight (47_acia.md R368 to R371,
70_reset_and_hazards.md R498). -/
abbrev Acia.consistent (d : Acia) : Prop :=
  (d.tdre = true → d.txPending = false) ∧ (d.tdre = false → d.txPending = true ∨ d.txBusy = true)

/-- The invariant of the machine: memory is in canonical form and holds entries only where RAM or ROM stands; bit 5 of
P is 1 (10_state.md R27); the ACIA is consistent; the decoder's expected counts are in the ratio 2 (48_tape_codec.md
R414, R416). -/
structure State.Inv (s : State) : Prop where
  memWf : Mem.wf s.mem
  memMapped : ∀ c ∈ s.mem, s.isStorage (BitVec.ofNat 16 c.1) = true
  bit5 : flagX s.p = true
  acia : s.acia.consistent
  tapeRatio : s.tape.countLo = 2 * s.tape.countHi

/-- The states a run can reach from `s`, by any interleaving of the agents' moves. -/
inductive Reaches (s : State) : State → Prop
  | refl : Reaches s s
  | move {t u : State} (m : Move) : Reaches s t → act m t = .next u → Reaches s u

/-- An address whose reads have no side effect and whose value only a store to RAM changes: it is unmapped, RAM or ROM
(20_memory.md R64, R71). -/
def State.plainAt (s : State) (a : Addr) : Bool :=
  match s.kindAt a with
  | none => true
  | some .ram => true
  | some .rom => true
  | some .acia => false
  | some .device => false

/-- The byte of memory at an address: what RAM or ROM holds there. -/
def State.memByte (s : State) (a : Addr) : Byte := memGet s.mem a.toNat

/-- What no instruction changes but as its rule says: the latches, the stop request, the decode session, the host's
settings and the configuration. -/
structure SameBackground (s t : State) : Prop where
  resetLatch : t.resetLatch = s.resetLatch
  nmiLatch : t.nmiLatch = s.nmiLatch
  irqLatch : t.irqLatch = s.irqLatch
  stopRequested : t.stopRequested = s.stopRequested
  tape : t.tape = s.tape
  clockMHz : t.clockMHz = s.clockMHz
  traceOn : t.traceOn = s.traceOn
  cfg : t.cfg = s.cfg

/-- The ACIA and the events differ by worker steps alone. -/
def OnlyWorker (s t : State) : Prop :=
  ∃ ms, (t.acia, t.events) = workerRun ms (s.acia, s.events)

/-- Every flag outside the list is unchanged, and so is bit 5 of P. -/
def FlagsKeptBut (written : List Flag) (s t : State) : Prop :=
  (∀ f, f ∉ written → t.flag f = s.flag f) ∧ flagX t.p = flagX s.p

/-- N and Z follow the byte `v` (00_scope.md R13); every other flag is unchanged. -/
def NZFrom (v : Byte) (s t : State) : Prop :=
  t.flag .n = v.msb ∧ t.flag .z = (v == 0) ∧ FlagsKeptBut [.n, .z] s t

/-- N and Z follow `v`, C is `c`; every other flag is unchanged. -/
def NZCFrom (v : Byte) (c : Bool) (s t : State) : Prop :=
  t.flag .n = v.msb ∧ t.flag .z = (v == 0) ∧ t.flag .c = c ∧ FlagsKeptBut [.n, .z, .c] s t

/-- The frame of an instruction that stores nothing: from `s` to `t` the background, `halted` and every byte of memory
are unchanged, and the devices stand as the instruction's accesses left them in `u` (`u` is `s` where it makes
none). -/
structure LeavesWorld (s u t : State) : Prop where
  background : SameBackground s t
  halted : t.halted = s.halted
  memory : ∀ a, t.memByte a = s.memByte a
  acia : t.acia = u.acia
  events : t.events = u.events
  tick : t.tick = u.tick

/-- The frame of an instruction that writes `v` to the address `a`, `u` being the state after its earlier accesses: the
background and `halted` are unchanged; every byte of memory but the one at `a` is unchanged, and that one becomes `v`
where `a` is RAM and is unchanged elsewhere; the devices take the write after one more gap (20_memory.md R66, R78). -/
structure StoresAt (a : Addr) (v : Byte) (s u t : State) : Prop where
  background : SameBackground s t
  halted : t.halted = s.halted
  stored : t.memByte a = if s.kindAt a = some .ram then v else s.memByte a
  others : ∀ b, b ≠ a → t.memByte b = s.memByte b
  acia : t.acia = aciaAfterWrite a v (gap u)
  events : t.events = eventsAfterWrite a v (gap u)
  tick : t.tick = u.tick + 1

/-- `pc <- next` for an instruction of `len` bytes (00_scope.md R14), with `cyc` cycles charged (60_exceptions.md
R455). -/
def Advanced (len cyc : Nat) (s t : State) : Prop :=
  t.pc = s.pc + BitVec.ofNat 16 len ∧ t.cycles = s.cycles + cyc

/-- The frame of what pushes the bytes `vs`, the first of them first, `u` being the state after all its accesses: S goes
down by their number, the `k`-th byte stands at 0x0100 + (S - k) where the stack page is RAM, every other byte of memory
is unchanged, and the devices stand as in `u` (20_memory.md R66, R74). -/
structure PushesFrom (vs : List Byte) (s u t : State) : Prop where
  background : SameBackground s t
  halted : t.halted = s.halted
  sp : t.sp = s.sp - BitVec.ofNat 8 vs.length
  stored : ∀ k (h : k < vs.length), t.memByte (stackAddr (s.sp - BitVec.ofNat 8 k)) =
    if s.kindAt 0x0100 = some .ram then vs[k] else s.memByte (stackAddr (s.sp - BitVec.ofNat 8 k))
  others : ∀ b, (∀ k, k < vs.length → b ≠ stackAddr (s.sp - BitVec.ofNat 8 k)) →
    t.memByte b = s.memByte b
  acia : t.acia = u.acia
  events : t.events = u.events
  tick : t.tick = u.tick

end Sys2Proof.Machine
end

