-- ==== Sys2Proof/Certificates/Slice0/Obligations.lean ====
section
/-!
DEFINITION. The statements about the machine, from the numbered rules of the spec. A statement about an instruction says
that it completes in every state, what it writes, and that everything else stays as it was.
-/

open Sys2Proof Sys2Proof.Machine

-- Decoding and the step.

/-- 30_encoding.md R105: words written out from the encodings of the instruction rules decode to the instructions they
stand for, in the standard configuration, whose two simulator opcodes are the model's choice (log 7). -/
def Obligations.WrittenOutWordsDecode : Prop :=
  decode Config.standard [0xA9, 0x80] = .ok (.lda (.imm 0x80), []) ∧
  decode Config.standard [0xB1, 0x30] = .ok (.lda (.mem (.indy 0x30)), []) ∧
  decode Config.standard [0x8D, 0x00, 0x02] = .ok (.sta (.abs 0x0200), []) ∧
  decode Config.standard [0xBA] = .ok (.tsx, []) ∧
  decode Config.standard [0x69, 0x01] = .ok (.adc (.imm 0x01), []) ∧
  decode Config.standard [0x24, 0x10] = .ok (.bit (.zp 0x10), []) ∧
  decode Config.standard [0xD6, 0x10] = .ok (.dec (.zpx 0x10), []) ∧
  decode Config.standard [0x0A] = .ok (.asl .acc, []) ∧
  decode Config.standard [0x6E, 0x00, 0x03] = .ok (.ror (.mem (.abs 0x0300)), []) ∧
  decode Config.standard [0x90, 0x10] = .ok (.bcc 0x10, []) ∧
  decode Config.standard [0x6C, 0xFF, 0x10] = .ok (.jmp (.ind 0x10FF), []) ∧
  decode Config.standard [0x20, 0x00, 0x03] = .ok (.jsr 0x0300, []) ∧
  decode Config.standard [0x00, 0x55] = .ok (.brk, [0x55]) ∧
  decode Config.standard [0x48] = .ok (.pha, []) ∧
  decode Config.standard [0x18] = .ok (.clc, []) ∧
  decode Config.standard [0xFF] = .ok (.undef 0xFF, []) ∧
  decode Config.standard [0x02] = .ok (.halt, []) ∧
  decode Config.standard [0x12, 0x07] = .ok (.debug 0x07, [])

/-- 60_exceptions.md R455, 20_memory.md R84: an iteration services the highest latched signal, reads the opcode and as
many operand bytes as it asks for, one access each, and runs the instruction the decoder reads from these bytes, in the
state those accesses leave: the state after the service but for the ACIA, the events and the count of gaps, which is
the model's device for the worker (log 8). -/
def Obligations.StepRunsTheDecodedInstruction : Prop :=
  ∀ s : State, s.idle = false →
    let v := serviceSignals s
    let r0 := memRead .instruction v.pc v
    let r1 := memRead .instruction (v.pc + 1) r0.2
    let r2 := memRead .instruction (v.pc + 2) r1.2
    ∃ (i : Instr) (rest : List Byte) (u : State), decode v.cfg [r0.1, r1.1, r2.1] = .ok (i, rest) ∧
      u = noteTrace (if i.length = 1 then r0.2 else if i.length = 2 then r1.2 else r2.2) ∧
      u = { v with acia := u.acia, events := u.events, tick := v.tick + i.length } ∧
      step s = exec i u

/-- 30_encoding.md R100 to R108: the bytes the instruction rules give a well-formed instruction decode, by the opcode
map, to that instruction, with every operand at every value, whatever stands after them. -/
def Obligations.DecodeInvertsEncode : Prop :=
  ∀ (c : Config) (i : Instr) (rest : List Byte), c.simulatorOpcodesValid → i.wellFormed c = true →
    (encode c i).length = i.length ∧ decode c (encode c i ++ rest) = .ok (i, rest)

/-- 30_encoding.md R105, R106: every three bytes decode to a well-formed instruction, whose encoding is the bytes it
takes. -/
def Obligations.EncodeInvertsDecode : Prop :=
  ∀ (c : Config) (op b1 b2 : Byte), c.simulatorOpcodesValid →
    ∃ (i : Instr) (rest : List Byte), decode c [op, b1, b2] = .ok (i, rest) ∧ i.wellFormed c = true ∧
      encode c i ++ rest = [op, b1, b2]

/-- 30_encoding.md R106: the order in which a byte is decoded, and that the two simulator opcodes hide no documented
instruction. -/
def Obligations.DecodingOrder : Prop :=
  ∀ (c : Config) (op b1 b2 : Byte),
    (if op = c.opHalt then decodeOp c op b1 b2 = .halt
     else if op = c.opDebug then decodeOp c op b1 b2 = .debug b1
     else if op ∈ undefinedOpcodes then decodeOp c op b1 b2 = .undef op
     else opcodeOf c (decodeOp c op b1 b2) = some op ∧ (decodeOp c op b1 b2).wellFormed c = true) ∧
    (c.simulatorOpcodesValid → op ∉ undefinedOpcodes → op ≠ c.opHalt ∧ op ≠ c.opDebug)

-- The ALU.

/-- 40_alu.md R141: binary add is two's-complement addition of bytes with a carry in; C is the carry out of the unsigned
sum, V that the signed sum does not fit. -/
def Obligations.BinaryAdd : Prop :=
  ∀ (a b : Byte) (c : Bool),
    (addBinary a b c).r = a + b + (if c then 1 else 0) ∧
    (addBinary a b c).flags.n = some (addBinary a b c).r.msb ∧
    (addBinary a b c).flags.z = some ((addBinary a b c).r == 0) ∧
    (addBinary a b c).flags.c = some (decide (256 ≤ a.toNat + b.toNat + (if c then 1 else 0))) ∧
    (addBinary a b c).flags.v =
      some (decide ((addBinary a b c).r.toInt ≠ a.toInt + b.toInt + (if c then 1 else 0)))

/-- 40_alu.md R143: binary subtract is subtraction of bytes with the borrow `1 - c`; C is "no borrow out", V that the
signed difference does not fit; and it is the addition of the complement. -/
def Obligations.BinarySubtract : Prop :=
  ∀ (a b : Byte) (c : Bool),
    (subBinary a b c).r = a - b - (if c then 0 else 1) ∧
    (subBinary a b c).flags.n = some (subBinary a b c).r.msb ∧
    (subBinary a b c).flags.z = some ((subBinary a b c).r == 0) ∧
    (subBinary a b c).flags.c = some (decide (b.toNat + (if c then 0 else 1) ≤ a.toNat)) ∧
    (subBinary a b c).flags.v =
      some (decide ((subBinary a b c).r.toInt ≠ a.toInt - b.toInt - (if c then 0 else 1))) ∧
    subBinary a b c = addBinary a (~~~b) c

/-- 40_alu.md R142, R144: decimal add and subtract of two packed BCD numbers 0 to 99 are addition and subtraction modulo
100 with their carry and borrow, N and Z from the packed result, V not written; and whatever the bytes, the result has
two decimal digits. -/
def Obligations.DecimalArithmetic : Prop :=
  (∀ (x y : Nat) (c : Bool), x < 100 → y < 100 →
    (addDecimal (packBcd x) (packBcd y) c).r = packBcd ((x + y + (if c then 1 else 0)) % 100) ∧
    (addDecimal (packBcd x) (packBcd y) c).flags.c =
      some (decide (100 ≤ x + y + (if c then 1 else 0))) ∧
    (subDecimal (packBcd x) (packBcd y) c).r =
      packBcd ((x + 100 - y - (if c then 0 else 1)) % 100) ∧
    (subDecimal (packBcd x) (packBcd y) c).flags.c =
      some (decide (y + (if c then 0 else 1) ≤ x))) ∧
  ∀ (o : AluOut) (a b : Byte) (c : Bool), o = addDecimal a b c ∨ o = subDecimal a b c →
    o.r.toNat / 16 ≤ 9 ∧ o.r.toNat % 16 ≤ 9 ∧ o.flags.n = some o.r.msb ∧
      o.flags.z = some (o.r == 0) ∧ o.flags.v = none

/-- 40_alu.md R146: compare gives the flags of the subtraction without borrow, C as an unsigned "not less", Z exactly
where the bytes are equal, and never V. -/
def Obligations.Compare : Prop :=
  ∀ a b : Byte,
    (aluCmp a b).n = (subBinary a b true).flags.n ∧ (aluCmp a b).z = (subBinary a b true).flags.z ∧
    (aluCmp a b).c = (subBinary a b true).flags.c ∧ (aluCmp a b).v = none ∧
    (aluCmp a b).c = some (decide (b ≤ a)) ∧ (aluCmp a b).z = some (decide (a = b)) ∧
    (aluCmp a b).n = some (a - b).msb

/-- 40_alu.md R150, R151, 44_shift_rotate.md R272: the two rotates go through the carry and undo each other, and nine of
the one restore both the operand and the carry. -/
def Obligations.RotatesThroughCarry : Prop :=
  let rol : Byte × Bool → Byte × Bool := fun p =>
    ((aluRol p.1 p.2).r, (aluRol p.1 p.2).flags.c.getD p.2)
  let ror : Byte × Bool → Byte × Bool := fun p =>
    ((aluRor p.1 p.2).r, (aluRor p.1 p.2).flags.c.getD p.2)
  ∀ p : Byte × Bool, ror (rol p) = p ∧ rol (ror p) = p ∧ rol^[9] p = p

-- Addresses and the bus.

/-- 41_addressing.md R174 to R183: the effective address of each mode, with its wraps, and the pointer reads it makes,
low byte first. -/
def Obligations.EffectiveAddressOfEachMode : Prop :=
  ∀ (s : State) (z : Byte) (w : Addr) (pc : Addr) (off : Byte),
    ((resolve (.zp z) s).1.toNat = z.toNat ∧ (resolve (.zp z) s).2 = s) ∧
    ((resolve (.zpx z) s).1.toNat = (z.toNat + s.x.toNat) % 256 ∧ (resolve (.zpx z) s).2 = s) ∧
    ((resolve (.zpy z) s).1.toNat = (z.toNat + s.y.toNat) % 256 ∧ (resolve (.zpy z) s).2 = s) ∧
    ((resolve (.abs w) s).1 = w ∧ (resolve (.abs w) s).2 = s) ∧
    ((resolve (.absx w) s).1.toNat = (w.toNat + s.x.toNat) % 65536 ∧ (resolve (.absx w) s).2 = s) ∧
    ((resolve (.absy w) s).1.toNat = (w.toNat + s.y.toNat) % 65536 ∧ (resolve (.absy w) s).2 = s) ∧
    (let lo := memRead .instruction (BitVec.ofNat 16 ((z.toNat + s.x.toNat) % 256)) s
     let hi := memRead .instruction (BitVec.ofNat 16 ((z.toNat + s.x.toNat + 1) % 256)) lo.2
     (resolve (.indx z) s).1.toNat = 256 * hi.1.toNat + lo.1.toNat ∧
       (resolve (.indx z) s).2 = hi.2) ∧
    (let lo := memRead .instruction (BitVec.ofNat 16 z.toNat) s
     let hi := memRead .instruction (BitVec.ofNat 16 ((z.toNat + 1) % 256)) lo.2
     (resolve (.indy z) s).1.toNat = (256 * hi.1.toNat + lo.1.toNat + s.y.toNat) % 65536 ∧
       (resolve (.indy z) s).2 = hi.2) ∧
    ((branchTarget pc off).toNat : Int) = ((pc.toNat : Int) + 2 + off.toInt) % 65536

/-- 20_memory.md R64, 47_acia.md R362, R366, R367, R382: what a read access returns and changes, by the kind of the region
that owns the address; before it the worker may have acted (R78). The gap and the free byte of a device are the model's
choice of form (logs 8 and 10). That the stray-read quirk covers every access of the instruction at its address, its
fetches among them, and none of a service is the model's reading (log 14), and so is that a data read of the RESET
service returns RDR and keeps RDRF (log 30). -/
def Obligations.BusReadByRegionKind : Prop :=
  ∀ (w : Accessor) (a : Addr) (s : State),
    match s.kindAt a with
    | none => memRead w a s = (highByte a, gap s)
    | some .ram => memRead w a s = (s.memByte a, gap s)
    | some .rom => memRead w a s = (s.memByte a, gap s)
    | some .acia =>
      if s.offsetAt a % 2 = 0 then
        memRead w a s =
          ((if (gap s).acia.tdre then 0x02 else 0x00) + (if (gap s).acia.rdrf then 0x01 else 0x00), gap s)
      else
        memRead w a s =
          ((gap s).acia.rdr,
           if w = .reset ∨ s.cfg.quirkStrayRead = true ∧ w = .instruction ∧ s.pc = s.cfg.quirkStrayReadPC then gap s
           else (gap s).setAcia { (gap s).acia with rdrf := false })
    | some .device =>
      memRead w a s =
        (Config.deviceByte (s.tick + 1) a, (gap s).emit (.deviceRead a (s.offsetAt a)))

/-- 20_memory.md R66, 47_acia.md R363, R364, R368: what a write access changes, by the kind of the region that owns the
address; before it the worker may have acted (R78), in a gap as the model has it (log 8). -/
def Obligations.BusWriteByRegionKind : Prop :=
  ∀ (a : Addr) (v : Byte) (s : State),
    match s.kindAt a with
    | none => memWrite a v s = gap s
    | some .ram =>
      memWrite a v s = (gap s).setMem (memWrite a v s).mem ∧ (memWrite a v s).memByte a = v ∧
        ∀ b, b ≠ a → (memWrite a v s).memByte b = s.memByte b
    | some .rom => memWrite a v s = gap s
    | some .acia =>
      if s.offsetAt a % 2 = 0 then
        memWrite a v s = (gap s).setAcia
          (if v = 0x03 then
            { (gap s).acia with tdre := true, rdrf := false, txPending := false, ctrl := 0x00 }
           else { (gap s).acia with ctrl := v })
      else
        memWrite a v s =
          (gap s).setAcia { (gap s).acia with tdr := v, txPending := true, tdre := false }
    | some .device => memWrite a v s = (gap s).emit (.deviceWrite a (s.offsetAt a) v)

/-- 20_memory.md R74, 00_scope.md R11: a push writes at 0x0100 + S and then decrements S modulo 256, a pull increments S
modulo 256 and then reads at 0x0100 + S; where the stack page is RAM, a pull after a push gives the byte back. -/
def Obligations.PushAndPull : Prop :=
  ∀ (v : Byte) (s : State),
    push v s = { memWrite (BitVec.ofNat 16 (256 + s.sp.toNat)) v s with sp := s.sp - 1 } ∧
    pull s = memRead .instruction (BitVec.ofNat 16 (256 + (s.sp.toNat + 1) % 256))
      { s with sp := s.sp + 1 } ∧
    (push v s).sp.toNat = (s.sp.toNat + 255) % 256 ∧
    (pull s).2.sp.toNat = (s.sp.toNat + 1) % 256 ∧
    (s.kindAt 0x0100 = some .ram → (pull (push v s)).1 = v ∧ (pull (push v s)).2.sp = s.sp)

/-- 20_memory.md R62, R63: a region registered later owns every block it spans, whatever was registered before; the
offset of an access lies inside the owning region. -/
def Obligations.LaterRegionWins : Prop :=
  (∀ blk, slotOf [] blk = none) ∧
  (∀ (table : List Region) (r : Region) (blk : Nat), slotOf (table ++ [r]) blk =
    if baseBlock r ≤ blk ∧ blk < baseBlock r + r.blockCount then some r else slotOf table blk) ∧
  ∀ (s : State) (a : Addr) (r : Region), s.owner a = some r →
    a.toNat = 256 * baseBlock r + s.offsetAt a ∧ s.offsetAt a < 256 * r.blockCount

-- Loads, stores and transfers.

/-- 42_load_store_transfer.md R200 to R202: each load completes in every state and for every source; its register takes
the loaded byte, N and Z follow it, and nothing else changes but what the load's own accesses did. -/
def Obligations.Loads : Prop :=
  ∀ (o : Src) (s : State),
    let v := (load o s).1
    let u := (load o s).2
    (∃ t, exec (.lda o) s = .next t ∧ t.a = v ∧ t.x = s.x ∧ t.y = s.y ∧ t.sp = s.sp ∧
      NZFrom v s t ∧ Advanced (srcLength o) (srcCycles o) s t ∧ LeavesWorld s u t) ∧
    (∃ t, exec (.ldx o) s = .next t ∧ t.a = s.a ∧ t.x = v ∧ t.y = s.y ∧ t.sp = s.sp ∧
      NZFrom v s t ∧ Advanced (srcLength o) (srcCycles o) s t ∧ LeavesWorld s u t) ∧
    (∃ t, exec (.ldy o) s = .next t ∧ t.a = s.a ∧ t.x = s.x ∧ t.y = v ∧ t.sp = s.sp ∧
      NZFrom v s t ∧ Advanced (srcLength o) (srcCycles o) s t ∧ LeavesWorld s u t) ∧
    (∀ b, load (.imm b) s = (b, s)) ∧
    ∀ m, load (.mem m) s = memRead .instruction (resolve m s).1 (resolve m s).2

/-- 42_load_store_transfer.md R203 to R205: each store completes in every state and for every effective address; the one
byte it writes goes to that address, and no register or flag changes. -/
def Obligations.Stores : Prop :=
  ∀ (m : Ea) (s : State),
    let e := (resolve m s).1
    let u := (resolve m s).2
    (∃ t, exec (.sta m) s = .next t ∧ t.a = s.a ∧ t.x = s.x ∧ t.y = s.y ∧ t.sp = s.sp ∧
      t.p = s.p ∧ Advanced (eaLength m) (eaStoreCycles m) s t ∧ StoresAt e s.a s u t) ∧
    (∃ t, exec (.stx m) s = .next t ∧ t.a = s.a ∧ t.x = s.x ∧ t.y = s.y ∧ t.sp = s.sp ∧
      t.p = s.p ∧ Advanced (eaLength m) (eaStoreCycles m) s t ∧ StoresAt e s.x s u t) ∧
    (∃ t, exec (.sty m) s = .next t ∧ t.a = s.a ∧ t.x = s.x ∧ t.y = s.y ∧ t.sp = s.sp ∧
      t.p = s.p ∧ Advanced (eaLength m) (eaStoreCycles m) s t ∧ StoresAt e s.y s u t)

/-- 42_load_store_transfer.md R206 to R211: the transfers; all but TXS set N and Z from the byte moved, TXS writes no
flag. -/
def Obligations.Transfers : Prop :=
  ∀ s : State,
    (∃ t, exec .tax s = .next t ∧ t.a = s.a ∧ t.x = s.a ∧ t.y = s.y ∧ t.sp = s.sp ∧
      NZFrom s.a s t ∧ Advanced 1 2 s t ∧ LeavesWorld s s t) ∧
    (∃ t, exec .tay s = .next t ∧ t.a = s.a ∧ t.x = s.x ∧ t.y = s.a ∧ t.sp = s.sp ∧
      NZFrom s.a s t ∧ Advanced 1 2 s t ∧ LeavesWorld s s t) ∧
    (∃ t, exec .txa s = .next t ∧ t.a = s.x ∧ t.x = s.x ∧ t.y = s.y ∧ t.sp = s.sp ∧
      NZFrom s.x s t ∧ Advanced 1 2 s t ∧ LeavesWorld s s t) ∧
    (∃ t, exec .tya s = .next t ∧ t.a = s.y ∧ t.x = s.x ∧ t.y = s.y ∧ t.sp = s.sp ∧
      NZFrom s.y s t ∧ Advanced 1 2 s t ∧ LeavesWorld s s t) ∧
    (∃ t, exec .tsx s = .next t ∧ t.a = s.a ∧ t.x = s.sp ∧ t.y = s.y ∧ t.sp = s.sp ∧
      NZFrom s.sp s t ∧ Advanced 1 2 s t ∧ LeavesWorld s s t) ∧
    exec .txs s = .next { s with sp := s.x, pc := s.pc + 1, cycles := s.cycles + 2 }

-- Arithmetic and logic.

/-- 43_arith_logic.md R230, 40_alu.md R141, R142, R145: ADC completes in every state and for every source. With D clear
it adds bytes and defines V; with D set it adds decimal digits at face value, modulo 100, and leaves V alone. N and Z
follow the result. -/
def Obligations.AdcAddsWithCarry : Prop :=
  ∀ (o : Src) (s : State),
    let v := (load o s).1
    let c := if s.flag .c then 1 else 0
    let sum : Nat := if s.flag .d then decOf s.a + decOf v + c else s.a.toNat + v.toNat + c
    ∃ t, exec (.adc o) s = .next t ∧
      t.a.toNat = (if s.flag .d then 16 * (sum % 100 / 10) + sum % 10 else sum % 256) ∧
      t.x = s.x ∧ t.y = s.y ∧ t.sp = s.sp ∧
      t.flag .n = t.a.msb ∧ t.flag .z = (t.a == 0) ∧
      t.flag .c = decide ((if s.flag .d then 100 else 256) ≤ sum) ∧
      t.flag .v = (if s.flag .d then s.flag .v
        else decide (s.a.toInt + v.toInt + c < -128 ∨ 127 < s.a.toInt + v.toInt + c)) ∧
      FlagsKeptBut [.n, .z, .c, .v] s t ∧
      Advanced (srcLength o) (srcCycles o) s t ∧ LeavesWorld s (load o s).2 t

/-- 43_arith_logic.md R231, 40_alu.md R143 to R145: SBC completes in every state and for every source, subtracting with
the borrow `1 - C`, in binary or in decimal as D says; C is "no borrow", V is written in binary mode only. -/
def Obligations.SbcSubtractsWithBorrow : Prop :=
  ∀ (o : Src) (s : State),
    let v := (load o s).1
    let w : Int := if s.flag .c then 0 else 1
    let diff : Int := if s.flag .d then (decOf s.a : Int) - decOf v - w else (s.a.toNat : Int) - v.toNat - w
    ∃ t, exec (.sbc o) s = .next t ∧
      (t.a.toNat : Int) = (if s.flag .d then 16 * (diff % 100 / 10) + diff % 10 else diff % 256) ∧
      t.x = s.x ∧ t.y = s.y ∧ t.sp = s.sp ∧
      t.flag .n = t.a.msb ∧ t.flag .z = (t.a == 0) ∧ t.flag .c = decide (0 ≤ diff) ∧
      t.flag .v = (if s.flag .d then s.flag .v
        else decide (s.a.toInt - v.toInt - w < -128 ∨ 127 < s.a.toInt - v.toInt - w)) ∧
      FlagsKeptBut [.n, .z, .c, .v] s t ∧
      Advanced (srcLength o) (srcCycles o) s t ∧ LeavesWorld s (load o s).2 t

/-- 43_arith_logic.md R232 to R234: AND, ORA and EOR complete in every state and for every source; A takes the result, N
and Z follow it, and no other flag changes. -/
def Obligations.LogicOnTheAccumulator : Prop :=
  ∀ (o : Src) (s : State),
    let v := (load o s).1
    let u := (load o s).2
    (∃ t, exec (.and o) s = .next t ∧ t.a = s.a &&& v ∧ t.x = s.x ∧ t.y = s.y ∧ t.sp = s.sp ∧
      NZFrom (s.a &&& v) s t ∧ Advanced (srcLength o) (srcCycles o) s t ∧ LeavesWorld s u t) ∧
    (∃ t, exec (.ora o) s = .next t ∧ t.a = s.a ||| v ∧ t.x = s.x ∧ t.y = s.y ∧ t.sp = s.sp ∧
      NZFrom (s.a ||| v) s t ∧ Advanced (srcLength o) (srcCycles o) s t ∧ LeavesWorld s u t) ∧
    (∃ t, exec (.eor o) s = .next t ∧ t.a = s.a ^^^ v ∧ t.x = s.x ∧ t.y = s.y ∧ t.sp = s.sp ∧
      NZFrom (s.a ^^^ v) s t ∧ Advanced (srcLength o) (srcCycles o) s t ∧ LeavesWorld s u t)

/-- 43_arith_logic.md R235 to R237: the compares complete in every state and for every source; they write N, Z and C
from the register and the operand, and nothing else. -/
def Obligations.Compares : Prop :=
  ∀ (o : Src) (s : State),
    let v := (load o s).1
    let u := (load o s).2
    (∃ t, exec (.cmp o) s = .next t ∧ t.a = s.a ∧ t.x = s.x ∧ t.y = s.y ∧ t.sp = s.sp ∧
      NZCFrom (s.a - v) (decide (v ≤ s.a)) s t ∧ Advanced (srcLength o) (srcCycles o) s t ∧
      LeavesWorld s u t) ∧
    (∃ t, exec (.cpx o) s = .next t ∧ t.a = s.a ∧ t.x = s.x ∧ t.y = s.y ∧ t.sp = s.sp ∧
      NZCFrom (s.x - v) (decide (v ≤ s.x)) s t ∧ Advanced (srcLength o) (srcCycles o) s t ∧
      LeavesWorld s u t) ∧
    (∃ t, exec (.cpy o) s = .next t ∧ t.a = s.a ∧ t.x = s.x ∧ t.y = s.y ∧ t.sp = s.sp ∧
      NZCFrom (s.y - v) (decide (v ≤ s.y)) s t ∧ Advanced (srcLength o) (srcCycles o) s t ∧
      LeavesWorld s u t)

/-- 43_arith_logic.md R238: BIT sets Z from A AND the operand, copies N and V from the operand's bits 7 and 6, and
changes nothing else. -/
def Obligations.BitTestsAgainstA : Prop :=
  ∀ (m : Ea) (s : State),
    let v := (load (.mem m) s).1
    ∃ t, exec (.bit m) s = .next t ∧ t.a = s.a ∧ t.x = s.x ∧ t.y = s.y ∧ t.sp = s.sp ∧
      t.flag .z = (s.a &&& v == 0) ∧ t.flag .n = v.getLsbD 7 ∧ t.flag .v = v.getLsbD 6 ∧
      FlagsKeptBut [.z, .n, .v] s t ∧
      Advanced (eaLength m) (eaReadCycles m) s t ∧ LeavesWorld s (load (.mem m) s).2 t

/-- 43_arith_logic.md R239, R240, 41_addressing.md R186: INC and DEC complete in every state and for every address: one
read, then one write of the changed byte to the same address, N and Z from the byte written. -/
def Obligations.IncrementAndDecrementMemory : Prop :=
  ∀ (m : Ea) (s : State),
    let e := (resolve m s).1
    let v := (memRead .instruction e (resolve m s).2).1
    let u := (memRead .instruction e (resolve m s).2).2
    (∃ t, exec (.inc m) s = .next t ∧ t.a = s.a ∧ t.x = s.x ∧ t.y = s.y ∧ t.sp = s.sp ∧
      NZFrom (v + 1) s t ∧ Advanced (eaLength m) (eaModifyCycles m) s t ∧
      StoresAt e (v + 1) s u t) ∧
    (∃ t, exec (.dec m) s = .next t ∧ t.a = s.a ∧ t.x = s.x ∧ t.y = s.y ∧ t.sp = s.sp ∧
      NZFrom (v - 1) s t ∧ Advanced (eaLength m) (eaModifyCycles m) s t ∧
      StoresAt e (v - 1) s u t)

/-- 43_arith_logic.md R241 to R244: INX, INY, DEX and DEY. -/
def Obligations.StepIndexRegisters : Prop :=
  ∀ s : State,
    (∃ t, exec .inx s = .next t ∧ t.a = s.a ∧ t.x = s.x + 1 ∧ t.y = s.y ∧ t.sp = s.sp ∧
      NZFrom (s.x + 1) s t ∧ Advanced 1 2 s t ∧ LeavesWorld s s t) ∧
    (∃ t, exec .iny s = .next t ∧ t.a = s.a ∧ t.x = s.x ∧ t.y = s.y + 1 ∧ t.sp = s.sp ∧
      NZFrom (s.y + 1) s t ∧ Advanced 1 2 s t ∧ LeavesWorld s s t) ∧
    (∃ t, exec .dex s = .next t ∧ t.a = s.a ∧ t.x = s.x - 1 ∧ t.y = s.y ∧ t.sp = s.sp ∧
      NZFrom (s.x - 1) s t ∧ Advanced 1 2 s t ∧ LeavesWorld s s t) ∧
    (∃ t, exec .dey s = .next t ∧ t.a = s.a ∧ t.x = s.x ∧ t.y = s.y - 1 ∧ t.sp = s.sp ∧
      NZFrom (s.y - 1) s t ∧ Advanced 1 2 s t ∧ LeavesWorld s s t)

-- Shifts and rotates.

/-- 44_shift_rotate.md R270 to R273, accumulator form: A is shifted by one bit, C takes the bit shifted out, a rotate
shifts the old C in, N and Z follow the result. -/
def Obligations.ShiftTheAccumulator : Prop :=
  ∀ s : State,
    let cin : Nat := if s.flag .c then 1 else 0
    (∃ t, exec (.asl .acc) s = .next t ∧ t.a.toNat = s.a.toNat * 2 % 256 ∧ t.x = s.x ∧ t.y = s.y ∧
      t.sp = s.sp ∧ NZCFrom t.a (s.a.getLsbD 7) s t ∧ Advanced 1 2 s t ∧ LeavesWorld s s t) ∧
    (∃ t, exec (.lsr .acc) s = .next t ∧ t.a.toNat = s.a.toNat / 2 ∧ t.x = s.x ∧ t.y = s.y ∧
      t.sp = s.sp ∧ NZCFrom t.a (s.a.getLsbD 0) s t ∧ Advanced 1 2 s t ∧ LeavesWorld s s t) ∧
    (∃ t, exec (.rol .acc) s = .next t ∧ t.a.toNat = (s.a.toNat * 2 + cin) % 256 ∧ t.x = s.x ∧
      t.y = s.y ∧ t.sp = s.sp ∧ NZCFrom t.a (s.a.getLsbD 7) s t ∧ Advanced 1 2 s t ∧
      LeavesWorld s s t) ∧
    (∃ t, exec (.ror .acc) s = .next t ∧ t.a.toNat = s.a.toNat / 2 + 128 * cin ∧ t.x = s.x ∧
      t.y = s.y ∧ t.sp = s.sp ∧ NZCFrom t.a (s.a.getLsbD 0) s t ∧ Advanced 1 2 s t ∧
      LeavesWorld s s t)

/-- 44_shift_rotate.md R270 to R273, memory forms: one read, then one write of the shifted byte to the same address, C,
N and Z as in the accumulator form; the flags come from the computed byte even where the write is discarded. -/
def Obligations.ShiftMemory : Prop :=
  ∀ (m : Ea) (s : State),
    let cin : Nat := if s.flag .c then 1 else 0
    let e := (resolve m s).1
    let v := (memRead .instruction e (resolve m s).2).1
    let u := (memRead .instruction e (resolve m s).2).2
    (∃ (t : State) (r : Byte), exec (.asl (.mem m)) s = .next t ∧ r.toNat = v.toNat * 2 % 256 ∧ StoresAt e r s u t ∧
      t.a = s.a ∧ t.x = s.x ∧ t.y = s.y ∧ t.sp = s.sp ∧ NZCFrom r (v.getLsbD 7) s t ∧
      Advanced (eaLength m) (eaModifyCycles m) s t) ∧
    (∃ (t : State) (r : Byte), exec (.lsr (.mem m)) s = .next t ∧ r.toNat = v.toNat / 2 ∧ StoresAt e r s u t ∧
      t.a = s.a ∧ t.x = s.x ∧ t.y = s.y ∧ t.sp = s.sp ∧ NZCFrom r (v.getLsbD 0) s t ∧
      Advanced (eaLength m) (eaModifyCycles m) s t) ∧
    (∃ (t : State) (r : Byte), exec (.rol (.mem m)) s = .next t ∧ r.toNat = (v.toNat * 2 + cin) % 256 ∧
      StoresAt e r s u t ∧ t.a = s.a ∧ t.x = s.x ∧ t.y = s.y ∧ t.sp = s.sp ∧
      NZCFrom r (v.getLsbD 7) s t ∧ Advanced (eaLength m) (eaModifyCycles m) s t) ∧
    (∃ (t : State) (r : Byte), exec (.ror (.mem m)) s = .next t ∧ r.toNat = v.toNat / 2 + 128 * cin ∧
      StoresAt e r s u t ∧ t.a = s.a ∧ t.x = s.x ∧ t.y = s.y ∧ t.sp = s.sp ∧
      NZCFrom r (v.getLsbD 0) s t ∧ Advanced (eaLength m) (eaModifyCycles m) s t)

-- Control transfer.

/-- 45_control_flow.md R290 to R298: each branch goes to `pc + 2` plus the signed offset where its condition holds, at
one cycle more, and to `pc + 2` elsewhere; it changes nothing but pc and the cycles. -/
def Obligations.Branches : Prop :=
  ∀ (off : Byte) (s : State),
    let go (taken : Bool) : State :=
      { s with
        pc := BitVec.ofInt 16 ((s.pc.toNat : Int) + 2 + (if taken then off.toInt else 0))
        cycles := s.cycles + 2 + (if taken then 1 else 0) }
    exec (.bcc off) s = .next (go (!s.flag .c)) ∧ exec (.bcs off) s = .next (go (s.flag .c)) ∧
    exec (.bne off) s = .next (go (!s.flag .z)) ∧ exec (.beq off) s = .next (go (s.flag .z)) ∧
    exec (.bpl off) s = .next (go (!s.flag .n)) ∧ exec (.bmi off) s = .next (go (s.flag .n)) ∧
    exec (.bvc off) s = .next (go (!s.flag .v)) ∧ exec (.bvs off) s = .next (go (s.flag .v))

/-- 45_control_flow.md R299, 41_addressing.md R180: JMP goes to the operand or, in the indirect form, to the word it
points at, low byte first, the high byte at the next address of the 64 KB space; it changes no register or flag. -/
def Obligations.JumpAbsoluteAndIndirect : Prop :=
  ∀ (w : Addr) (s : State),
    exec (.jmp (.abs w)) s = .next { s with pc := w, cycles := s.cycles + 3 } ∧
    (let lo := memRead .instruction w s
     let hi := memRead .instruction (BitVec.ofNat 16 ((w.toNat + 1) % 65536)) lo.2
     ∃ t, exec (.jmp (.ind w)) s = .next t ∧ t.pc.toNat = 256 * hi.1.toNat + lo.1.toNat ∧
       t.a = s.a ∧ t.x = s.x ∧ t.y = s.y ∧ t.sp = s.sp ∧ t.p = s.p ∧ t.cycles = s.cycles + 5 ∧
       LeavesWorld s hi.2 t)

/-- 45_control_flow.md R300: JSR pushes the address of its own last byte, high byte first, and goes to its operand. -/
def Obligations.JsrPushesItsLastByte : Prop :=
  ∀ (w : Addr) (s : State),
    let hi := highByte (s.pc + 2)
    let lo := lowByte (s.pc + 2)
    ∃ t, exec (.jsr w) s = .next t ∧ t.a = s.a ∧ t.x = s.x ∧ t.y = s.y ∧ t.p = s.p ∧ t.pc = w ∧
      t.cycles = s.cycles + 6 ∧ PushesFrom [hi, lo] s (push lo (push hi s)) t

/-- 45_control_flow.md R301: RTS pulls an address, low byte first, and goes to the next one. -/
def Obligations.RtsReturnsPastThePulledAddress : Prop :=
  ∀ s : State,
    let lo := pull s
    let hi := pull lo.2
    ∃ t, exec .rts s = .next t ∧ t.pc.toNat = (256 * hi.1.toNat + lo.1.toNat + 1) % 65536 ∧
      t.a = s.a ∧ t.x = s.x ∧ t.y = s.y ∧ t.sp = s.sp + 2 ∧ t.p = s.p ∧
      t.cycles = s.cycles + 6 ∧ LeavesWorld s hi.2 t

/-- 45_control_flow.md R300, R301: with the stack page in RAM, an RTS right after a JSR comes back to the instruction
after the JSR, with the registers and the flags as they were. -/
def Obligations.RtsComesBackFromJsr : Prop :=
  ∀ (w : Addr) (s : State), s.kindAt 0x0100 = some .ram →
    ∃ u t, exec (.jsr w) s = .next u ∧ exec .rts u = .next t ∧ t.pc = s.pc + 3 ∧
      t.a = s.a ∧ t.x = s.x ∧ t.y = s.y ∧ t.sp = s.sp ∧ t.p = s.p

/-- 45_control_flow.md R302: RTI pulls P, bit 5 forced to 1, and then pc, low byte first, and adds nothing to it. It
touches no latch. -/
def Obligations.RtiPullsStatusAndAddress : Prop :=
  ∀ s : State,
    let p := pull s
    let lo := pull (p.2.setP (p.1 ||| 0x20))
    let hi := pull lo.2
    ∃ t, exec .rti s = .next t ∧ t.p = p.1 ||| 0x20 ∧ t.pc.toNat = 256 * hi.1.toNat + lo.1.toNat ∧
      t.a = s.a ∧ t.x = s.x ∧ t.y = s.y ∧ t.sp = s.sp + 3 ∧ t.cycles = s.cycles + 6 ∧
      LeavesWorld s hi.2 t

/-- 45_control_flow.md R303: BRK pushes `pc + 2`, high byte first, sets B, pushes P with bits B and x set, sets I, and
goes through the IRQ vector, whatever I was; it touches no latch (60_exceptions.md R460). -/
def Obligations.BrkEntersTheIrqHandler : Prop :=
  ∀ s : State,
    let saved := saveContext (s.pc + 2) (some true) s
    let lo := memRead .instruction 0xFFFE saved
    let hi := memRead .instruction 0xFFFF lo.2
    ∃ t, exec .brk s = .next t ∧ t.a = s.a ∧ t.x = s.x ∧ t.y = s.y ∧
      t.p = s.p ||| 0x14 ∧ t.pc.toNat = 256 * hi.1.toNat + lo.1.toNat ∧ t.cycles = s.cycles + 7 ∧
      PushesFrom [highByte (s.pc + 2), lowByte (s.pc + 2), s.p ||| 0x30] s hi.2 t

-- Stack, flag, no-op, undefined and simulator instructions.

/-- 46_stack_flags_misc.md R320, R321: PHA pushes A, PHP pushes P with bits 4 and 5 set and leaves P itself alone. -/
def Obligations.PushAccumulatorAndStatus : Prop :=
  ∀ s : State,
    (∃ t, exec .pha s = .next t ∧ t.a = s.a ∧ t.x = s.x ∧ t.y = s.y ∧ t.p = s.p ∧
      Advanced 1 3 s t ∧ PushesFrom [s.a] s (push s.a s) t) ∧
    (∃ t, exec .php s = .next t ∧ t.a = s.a ∧ t.x = s.x ∧ t.y = s.y ∧ t.p = s.p ∧
      Advanced 1 3 s t ∧ PushesFrom [s.p ||| 0x30] s (push (s.p ||| 0x30) s) t)

/-- 46_stack_flags_misc.md R322, R323: PLA pulls A and sets N and Z from it; PLP pulls all of P, bit 5 forced to 1. -/
def Obligations.PullAccumulatorAndStatus : Prop :=
  ∀ s : State,
    let v := (pull s).1
    let u := (pull s).2
    (∃ t, exec .pla s = .next t ∧ t.a = v ∧ t.x = s.x ∧ t.y = s.y ∧ t.sp = s.sp + 1 ∧
      NZFrom v s t ∧ Advanced 1 4 s t ∧ LeavesWorld s u t) ∧
    (∃ t, exec .plp s = .next t ∧ t.a = s.a ∧ t.x = s.x ∧ t.y = s.y ∧ t.sp = s.sp + 1 ∧
      t.p = v ||| 0x20 ∧ Advanced 1 4 s t ∧ LeavesWorld s u t)

/-- 46_stack_flags_misc.md R324 to R330: the flag instructions write one bit of P and nothing else. -/
def Obligations.FlagInstructions : Prop :=
  ∀ s : State,
    let done (p : Byte) : State := { s with p := p, pc := s.pc + 1, cycles := s.cycles + 2 }
    exec .clc s = .next (done (s.p &&& 0xFE)) ∧ exec .sec s = .next (done (s.p ||| 0x01)) ∧
    exec .cld s = .next (done (s.p &&& 0xF7)) ∧ exec .sed s = .next (done (s.p ||| 0x08)) ∧
    exec .cli s = .next (done (s.p &&& 0xFB)) ∧ exec .sei s = .next (done (s.p ||| 0x04)) ∧
    exec .clv s = .next (done (s.p &&& 0xBF))

/-- 46_stack_flags_misc.md R331, R332: NOP and every undefined opcode move pc on by one byte and change nothing else; an
undefined opcode costs 6 cycles. -/
def Obligations.NopAndUndefined : Prop :=
  ∀ (op : Byte) (s : State),
    exec .nop s = .next { s with pc := s.pc + 1, cycles := s.cycles + 2 } ∧
    exec (.undef op) s = .next { s with pc := s.pc + 1, cycles := s.cycles + 6 }

/-- 46_stack_flags_misc.md R333, 60_exceptions.md R468: HALT completes in every state: it moves pc on and halts. From
then on the CPU takes no step until the host's wake, which clears `halted` and nothing else; unless it was also
stopped (R469), it then goes on. -/
def Obligations.HaltWaitsForWake : Prop :=
  ∀ s : State, ∃ t, exec .halt s = .next t ∧
    t = { s with pc := s.pc + 1, halted := true, cycles := s.cycles + s.cfg.haltCycles } ∧
    t.idle = true ∧ wake t = { t with halted := false } ∧ (wake t).idle = s.stopRequested

/-- 46_stack_flags_misc.md R334: DEBUG with an accepted selector gives the host one event and moves pc on by two; with
any other selector pc stays at the DEBUG. -/
def Obligations.DebugCallsBackOrRepeats : Prop :=
  ∀ (sel : Byte) (s : State),
    exec (.debug sel) s = .next
      (if sel ∈ s.cfg.debugSelectors then
        { s with
          events := .debugCallback sel :: s.events
          pc := s.pc + 2
          cycles := s.cycles + s.cfg.debugCycles }
       else { s with cycles := s.cycles + s.cfg.debugCycles })

-- Signals.

/-- 60_exceptions.md R468, R469, 47_acia.md R374: a halted or stopped CPU takes no step: no signal is serviced, nothing
is fetched, and only the ACIA worker may act. That `step` then answers a next state is the model's choice (log 13). -/
def Obligations.IdleCpuOnlyWaits : Prop :=
  ∀ s : State, s.halted = true ∨ s.stopRequested = true →
    ∃ t, step s = .next t ∧ OnlyWorker s t ∧
      t = { s with acia := t.acia, events := t.events, tick := s.tick + 1 }

/-- 60_exceptions.md R455, R456, 70_reset_and_hazards.md R491: an iteration services at most one signal, RESET before
NMI before IRQ, whatever I is, and takes back only that latch, but all three for RESET; the first iteration after
power-on services RESET. -/
def Obligations.SignalPriority : Prop :=
  (∀ s : State,
    (s.resetLatch = true → serviceSignals s = serviceReset s) ∧
    (s.resetLatch = false → s.nmiLatch = true → serviceSignals s = serviceNmi s) ∧
    (s.resetLatch = false → s.nmiLatch = false → s.irqLatch = true →
      serviceSignals s = serviceIrq s) ∧
    (s.resetLatch = false → s.nmiLatch = false → s.irqLatch = false → serviceSignals s = s) ∧
    (serviceSignals s).resetLatch = false ∧ (serviceSignals s).nmiLatch = false ∧
    (serviceSignals s).irqLatch = (!s.resetLatch && s.nmiLatch && s.irqLatch)) ∧
  ∀ (c : Config) (m : Mem),
    serviceSignals (State.powerOn c m) = serviceReset (State.powerOn c m)

/-- 60_exceptions.md R457, R455, R472, 47_acia.md R382: the RESET service discards all latches, loads the registers from the
configuration, bit 5 of P forced to 1, and pc from the reset vector; it pushes nothing, writes no memory and does not
touch the ACIA, which only the worker may change meanwhile. R457 and 10_state.md R43 say that the service leaves the
cycles unchanged, and R455 and R472 charge 7 for it in the same iteration: that `serviceReset` itself adds the 7 is the
model's reading (log 23). That R382 holds for the vector reads too, where the ACIA answers them, is the model's reading
with 92_eei_decisions.md D23 (log 30). -/
def Obligations.ServiceReset : Prop :=
  ∀ s : State,
    let lo := memRead .reset 0xFFFC { s with resetLatch := false, nmiLatch := false, irqLatch := false }
    let hi := memRead .reset 0xFFFD lo.2
    let t := serviceReset s
    t.a = s.cfg.resetA ∧ t.x = s.cfg.resetX ∧ t.y = s.cfg.resetY ∧ t.sp = s.cfg.resetS ∧
      t.p = s.cfg.resetP ||| 0x20 ∧ t.pc.toNat = 256 * hi.1.toNat + lo.1.toNat ∧
      t.cycles = s.cycles + 7 ∧ LeavesWorld (s.setLatches false false false) hi.2 t ∧
      ∃ ms, t.acia = (workerRun ms (s.acia, s.events)).1

/-- 60_exceptions.md R458, R472: the NMI service clears its latch, pushes pc, high byte first, and P as it stands with
bit 5 set, sets I, and goes through the NMI vector. -/
def Obligations.ServiceNmi : Prop :=
  ∀ s : State,
    let cleared := { s with nmiLatch := false }
    let lo := memRead .service 0xFFFA (saveContext s.pc none cleared)
    let hi := memRead .service 0xFFFB lo.2
    let t := serviceNmi s
    t.a = s.a ∧ t.x = s.x ∧ t.y = s.y ∧ t.p = s.p ||| 0x04 ∧
      t.pc.toNat = 256 * hi.1.toNat + lo.1.toNat ∧ t.cycles = s.cycles + 7 ∧
      PushesFrom [highByte s.pc, lowByte s.pc, s.p ||| 0x20] cleared hi.2 t

/-- 60_exceptions.md R459, R472: the IRQ service clears its latch, pushes pc, high byte first, clears B in P itself,
pushes P with bit 5 set, sets I, and goes through the IRQ vector, whatever I was. -/
def Obligations.ServiceIrq : Prop :=
  ∀ s : State,
    let cleared := { s with irqLatch := false }
    let lo := memRead .service 0xFFFE (saveContext s.pc (some false) cleared)
    let hi := memRead .service 0xFFFF lo.2
    let t := serviceIrq s
    t.a = s.a ∧ t.x = s.x ∧ t.y = s.y ∧ t.p = (s.p &&& 0xEF) ||| 0x04 ∧
      t.pc.toNat = 256 * hi.1.toNat + lo.1.toNat ∧ t.cycles = s.cycles + 7 ∧
      PushesFrom [highByte s.pc, lowByte s.pc, (s.p &&& 0xEF) ||| 0x20] cleared hi.2 t

/-- 60_exceptions.md R462, 45_control_flow.md R302, R303: with the stack page in RAM, an RTI as the next instruction
after an NMI service, an IRQ service or a BRK goes back to where it came from, with A, X, Y and S as they were and P as
it was pushed. -/
def Obligations.RtiReturnsFromEachEntry : Prop :=
  ∀ s : State, s.kindAt 0x0100 = some .ram →
    (∃ t, exec .rti (serviceNmi s) = .next t ∧ t.pc = s.pc ∧ t.p = s.p ||| 0x20 ∧
      t.a = s.a ∧ t.x = s.x ∧ t.y = s.y ∧ t.sp = s.sp) ∧
    (∃ t, exec .rti (serviceIrq s) = .next t ∧ t.pc = s.pc ∧ t.p = (s.p &&& 0xEF) ||| 0x20 ∧
      t.a = s.a ∧ t.x = s.x ∧ t.y = s.y ∧ t.sp = s.sp) ∧
    (∃ u t, exec .brk s = .next u ∧ exec .rti u = .next t ∧ t.pc = s.pc + 2 ∧ t.p = s.p ||| 0x30 ∧
      t.a = s.a ∧ t.x = s.x ∧ t.y = s.y ∧ t.sp = s.sp)

/-- 60_exceptions.md R452, R453, R454: what each raise operation latches; an IRQ raised while I is set is lost, and a
second raise adds nothing. -/
def Obligations.RaiseOperations : Prop :=
  ∀ s : State,
    raiseReset s = { s with resetLatch := true } ∧ raiseReset (raiseReset s) = raiseReset s ∧
    raiseNmi s = { s with nmiLatch := true } ∧ raiseNmi (raiseNmi s) = raiseNmi s ∧
    raiseIrq s = (if s.flag .i then s else { s with irqLatch := true }) ∧
    raiseIrq (raiseIrq s) = raiseIrq s

-- The ACIA.

/-- 47_acia.md R370 to R372: each worker step, where it is enabled and what it does; a step of the worker changes
nothing but the ACIA and the events. -/
def Obligations.WorkerSteps : Prop :=
  (∀ (d : Acia) (es : List Event) (answer : Option Byte),
    workerStep .txStart (d, es) =
      (if d.txPending = true ∧ d.txBusy = false then
        ({ d with txShift := d.tdr, txPending := false, txBusy := true }, es)
       else (d, es)) ∧
    workerStep .txFinish (d, es) =
      (if d.txBusy = true then
        ({ d with txBusy := false, tdre := if d.txPending = false then true else d.tdre },
          if d.txPeer = true then .peerWrite d.txShift :: es else es)
       else (d, es)) ∧
    workerStep (.rxPoll answer) (d, es) =
      (if d.rxPeer = true ∧ d.rdrf = false then
        match answer with
        | some b => ({ d with rdr := b, rdrf := true }, es)
        | none => (d, es)
       else (d, es))) ∧
  ∀ (m : WorkerMove) (s : State), workerAct m s =
    { s with
      acia := (workerStep m (s.acia, s.events)).1
      events := (workerStep m (s.acia, s.events)).2 }

/-- 70_reset_and_hazards.md R499: INC on the ACIA's status address, with status 0x02 at the read, writes 0x03 and so is
a master reset; the worker may act between the read and the write. -/
def Obligations.IncOnStatusIsMasterReset : Prop :=
  ∀ (w : Addr) (s : State), s.kindAt w = some .acia → s.offsetAt w % 2 = 0 →
    (gap s).acia.tdre = true → (gap s).acia.rdrf = false →
    ∃ t, exec (.inc (.abs w)) s = .next t ∧
      t.acia = { (gap (gap s)).acia with tdre := true, rdrf := false, txPending := false, ctrl := 0x00 } ∧
      ∀ b, t.memByte b = s.memByte b

-- The whole machine.

/-- 10_state.md R27, R38, 47_acia.md R368 to R371: every step keeps the invariant: memory in canonical form and inside
RAM and ROM, bit 5 of P set, the ACIA's transmit bits consistent, the decoder's expected counts in the ratio 2. The
form of memory is the model's choice (log 4). -/
def Obligations.StepKeepsInv : Prop :=
  ∀ s t : State, s.Inv → step s = .next t → t.Inv

/-- The machine right after reset meets the invariant. `State.reset` has the model's choices in it (logs 1 to 6). -/
def Obligations.ResetHasInv : Prop := State.reset.Inv

/-- 60_exceptions.md R466, 10_state.md R37: along any interleaving of the CPU, the ACIA worker and the host the invariant
holds and the configuration, the bus map with it, never changes. -/
def Obligations.EveryRunKeepsInv : Prop :=
  ∀ s t : State, s.Inv → Reaches s t → t.Inv ∧ t.cfg = s.cfg

/-- 60_exceptions.md R450, 00_scope.md R12: no instruction, no iteration and no move of an agent ends in a fault or a
refusal. A halted or stopped CPU takes no iteration (R468, R469): that `step` answers a next state there is the model's
choice (log 13). -/
def Obligations.NothingStopsTheMachine : Prop :=
  (∀ (i : Instr) (s : State), ∃ t, exec i s = .next t) ∧ (∀ s, ∃ t, step s = .next t) ∧
    ∀ (m : Move) (s : State), ∃ t, act m s = .next t

/-- 20_memory.md R66, R75: along any interleaving of the agents, no byte of ROM ever changes. -/
def Obligations.RomNeverChanges : Prop :=
  ∀ (s t : State) (a : Addr), Reaches s t → s.kindAt a = some .rom →
    t.kindAt a = some .rom ∧ t.memByte a = s.memByte a

/-- 10_state.md R21 to R24: the instructions that can change A, X, Y and S; 20_memory.md R83, 41_addressing.md R185, R186,
45_control_flow.md R300, R303, 46_stack_flags_misc.md R320, R321: those that can change memory. -/
def Obligations.WritersOfTheRegisters : Prop :=
  ∀ (i : Instr) (s t : State), exec i s = .next t →
    (t.a ≠ s.a →
      (∃ o, i = .lda o ∨ i = .adc o ∨ i = .sbc o ∨ i = .and o ∨ i = .ora o ∨ i = .eor o) ∨
      i = .txa ∨ i = .tya ∨ i = .pla ∨
      i = .asl .acc ∨ i = .lsr .acc ∨ i = .rol .acc ∨ i = .ror .acc) ∧
    (t.x ≠ s.x → (∃ o, i = .ldx o) ∨ i = .tax ∨ i = .tsx ∨ i = .inx ∨ i = .dex) ∧
    (t.y ≠ s.y → (∃ o, i = .ldy o) ∨ i = .tay ∨ i = .iny ∨ i = .dey) ∧
    (t.sp ≠ s.sp →
      i = .txs ∨ (∃ w, i = .jsr w) ∨ i = .rts ∨ i = .rti ∨ i = .brk ∨
      i = .pha ∨ i = .php ∨ i = .pla ∨ i = .plp) ∧
    (t.mem ≠ s.mem →
      (∃ m, i = .sta m ∨ i = .stx m ∨ i = .sty m ∨ i = .inc m ∨ i = .dec m ∨ i = .asl (.mem m) ∨
        i = .lsr (.mem m) ∨ i = .rol (.mem m) ∨ i = .ror (.mem m)) ∨
      (∃ w, i = .jsr w) ∨ i = .brk ∨ i = .pha ∨ i = .php)

/-- 10_state.md R26, R27, R32, R33: the instructions that can change V, B, D, I and C; bit 5 of P, the latches and the
stop request are changed by none, and `halted` only by HALT. -/
def Obligations.WritersOfTheFlags : Prop :=
  ∀ (i : Instr) (s t : State), exec i s = .next t →
    (t.flag .v ≠ s.flag .v →
      (∃ o, i = .adc o ∨ i = .sbc o) ∨ (∃ m, i = .bit m) ∨ i = .clv ∨ i = .plp ∨ i = .rti) ∧
    (t.flag .b ≠ s.flag .b → i = .brk ∨ i = .plp ∨ i = .rti) ∧
    (t.flag .d ≠ s.flag .d → i = .sed ∨ i = .cld ∨ i = .plp ∨ i = .rti) ∧
    (t.flag .i ≠ s.flag .i → i = .sei ∨ i = .cli ∨ i = .plp ∨ i = .rti ∨ i = .brk) ∧
    (t.flag .c ≠ s.flag .c →
      (∃ o, i = .adc o ∨ i = .sbc o ∨ i = .cmp o ∨ i = .cpx o ∨ i = .cpy o) ∨
      (∃ d, i = .asl d ∨ i = .lsr d ∨ i = .rol d ∨ i = .ror d) ∨
      i = .clc ∨ i = .sec ∨ i = .plp ∨ i = .rti) ∧
    (flagX s.p = true → flagX t.p = true) ∧
    (t.halted ≠ s.halted → i = .halt) ∧
    t.resetLatch = s.resetLatch ∧ t.nmiLatch = s.nmiLatch ∧ t.irqLatch = s.irqLatch ∧
    t.stopRequested = s.stopRequested

/-- 70_reset_and_hazards.md R497: a machine is built exactly where every region starts on a block boundary, has a block
and fits, every ROM has an image of its length, and there is one ACIA. That nothing else is a fault, invalid simulator
opcodes and codec parameters included, is the model's reading (log 21). -/
def Obligations.ConfigurationFaults : Prop :=
  ∀ (c : Config) (contents : List Contents),
    (∃ s, powerOn c contents = .ok s) ↔
      (∀ (k : Nat) (r : Region), c.regionTable[k]? = some r →
        r.baseAddr % 256 = 0 ∧ 1 ≤ r.blockCount ∧ r.baseAddr / 256 + r.blockCount ≤ 256 ∧
        (r.kind = .rom →
          ∃ image, contents[k]? = some (some image) ∧ image.length = 256 * r.blockCount)) ∧
      (c.regionTable.filter fun (r : Region) => r.kind = .acia).length = 1

/-- 10_state.md R43, 70_reset_and_hazards.md R490, 47_acia.md R379, 48_tape_codec.md R414: the machine right after its
construction: the latches, the ACIA, and every byte of RAM and ROM as the last region on its block was given it. The
form of memory is the model's choice (log 4). -/
def Obligations.PowerOnMachine : Prop :=
  ∀ (c : Config) (contents : List Contents) (s : State), powerOn c contents = .ok s →
    s.cfg = c ∧ s.resetLatch = true ∧ s.nmiLatch = false ∧ s.irqLatch = false ∧
    s.halted = false ∧ s.stopRequested = false ∧ s.cycles = 0 ∧
    s.acia.tdre = true ∧ s.acia.rdrf = false ∧ s.acia.rdr = c.aciaRdrInit ∧
    s.acia.txPending = false ∧ s.acia.txBusy = false ∧ s.acia.ctrl = 0x00 ∧
    s.acia.txPeer = false ∧ s.acia.rxPeer = false ∧
    Mem.wf s.mem ∧
    ∀ (a : Addr) (k : Nat) (r : Region) (bytes : List Byte),
      c.regionTable[k]? = some r → contents[k]? = some (some bytes) →
      (r.kind = .ram ∨ r.kind = .rom) → 256 * baseBlock r ≤ a.toNat →
      a.toNat - 256 * baseBlock r < bytes.length → covers r (highByte a).toNat = true →
      (∀ (j : Nat) (r' : Region), k < j → c.regionTable[j]? = some r' → covers r' (highByte a).toNat = false) →
      some (s.memByte a) = bytes[a.toNat - 256 * baseBlock r]?

-- The tape codec.

/-- 48_tape_codec.md R415, R421: with the expected counts in the ratio 2, a cycle is a space cycle exactly where its
length lies strictly between 1.5 and 3 times the expected mark length, and a mark cycle elsewhere. -/
def Obligations.ToneClassification : Prop :=
  ∀ (d : Session) (n : Nat), 0 < d.countHi → d.countLo = 2 * d.countHi →
    classify d n = if 3 / 2 * d.countHi < n ∧ (n : Rat) < 3 * d.countHi then .space else .mark

/-- 48_tape_codec.md R421: with matched parameters, phase 0 and a lead-in and a lead-out of at least one bit, the decoder
gives back the bytes the encoder was given, with adaptive tracking on or off: for a sine waveform where a mark cycle has
at least 4 samples and the first space sample after 0 does not round to 0; for a hardware waveform of any shape where its
samples meet the rule's condition. -/
def Obligations.TapeRoundTrip : Prop :=
  ∀ (c : Config) (wave : ℝ → ℝ) (bytes : List Byte),
    c.codecValid → c.phase = .deg0 → c.inBitDepth = c.bitDepth → c.inChannels = c.channels →
    1 ≤ leadBits c c.leadInSeconds → 1 ≤ leadBits c c.leadOutSeconds →
    (c.waveform = .sine → 4 ≤ markSamples c →
      1 ≤ roundHalfAway (amax c.bitDepth * Real.sin (2 * Real.pi / spaceSamples c)) →
      decodeTape c (encodeTape c wave bytes) = bytes) ∧
    (c.waveform = .hardware → HardwareShape wave → RoundTripCondition c (toneCycle c wave) →
      decodeTape c (encodeTape c wave bytes) = bytes)
end

