-- ==== Sys2Proof/Laws/Tape.lean ====
section
/-!
SUPPORT. The boundaries of a cycle's samples depend on their signs alone; the signs and sizes that rounding keeps; what
lies in a range.
-/

namespace Sys2Proof.Machine

@[simp] theorem crossings_nil (u : Int) (i : Nat) : crossings u i [] = [] := rfl

theorem crossings_cons (u : Int) (i : Nat) (v : Int) (vs : List Int) :
    crossings u i (v :: vs) = (if risesAt u v then [i] else []) ++ crossings v (i + 1) vs := by
  simp only [crossings]
  split <;> simp

/-- The boundaries of samples after samples: those of the first, then those of the rest after the last one of the
first. -/
theorem crossings_append (u : Int) (i : Nat) (xs ys : List Int) :
    crossings u i (xs ++ ys) =
      crossings u i xs ++ crossings (xs.getLast?.getD u) (i + xs.length) ys := by
  induction xs generalizing u i with
  | nil => rfl
  | cons v vs ih =>
    have hlast : (v :: vs).getLast?.getD u = vs.getLast?.getD v := by cases vs <;> simp [List.getLast?_cons]
    rw [List.cons_append, crossings_cons, ih, crossings_cons, hlast, List.append_assoc, List.length_cons,
      Nat.add_assoc, Nat.add_comm 1]

/-- Samples of the same signs have the same boundaries. -/
theorem crossings_congr {xs ys : List Int} (h : xs.map (fun v => decide (v < 0)) = ys.map fun v => decide (v < 0))
    {u w : Int} (hu : u < 0 ↔ w < 0) (i : Nat) : crossings u i xs = crossings w i ys := by
  induction xs generalizing ys u w i with
  | nil =>
    cases ys with
    | nil => rfl
    | cons _ _ => simp at h
  | cons v vs ih =>
    cases ys with
    | nil => simp at h
    | cons v' vs' =>
      simp only [List.map_cons, List.cons.injEq, decide_eq_decide] at h
      have hr : risesAt u v = risesAt w v' := by
        simp only [risesAt, ← not_lt, hu, h.1]
      rw [crossings_cons, crossings_cons, hr, ih h.2 h.1]

/-- A rounded number is below 0 exactly from -1/2 down (R404). -/
theorem roundHalfAway_neg_iff (r : ℝ) : roundHalfAway r < 0 ↔ r ≤ -(1 / 2) := by
  unfold roundHalfAway
  split
  · rename_i h
    have : 0 ≤ ⌊r + 1 / 2⌋ := Int.floor_nonneg.2 (by linarith)
    constructor <;> intro <;> [omega; linarith]
  · rw [Left.neg_neg_iff, ← Int.add_one_le_iff, Int.le_floor]
    push_cast
    constructor <;> intro <;> linarith

/-- Rounding does not leave a range that ends in whole numbers. -/
theorem roundHalfAway_abs_le {r : ℝ} {n : Nat} (h : |r| ≤ n) : |roundHalfAway r| ≤ n := by
  have key : ∀ x : ℝ, 0 ≤ x → x ≤ n → 0 ≤ ⌊x + 1 / 2⌋ ∧ ⌊x + 1 / 2⌋ ≤ n := fun x h0 hn =>
    ⟨Int.floor_nonneg.2 (by linarith), Int.lt_add_one_iff.1 (Int.floor_lt.2 (by push_cast; linarith))⟩
  rw [abs_le] at h ⊢
  unfold roundHalfAway
  split
  · have := key r (by assumption) h.2
    omega
  · have := key (-r) (by linarith) (by linarith)
    omega

@[simp] theorem sineCycle_length (a len : Nat) : (sineCycle a len).length = len := by simp [sineCycle]

@[simp] theorem hardwareCycle_length (wave : ℝ → ℝ) (a len : Nat) : (hardwareCycle wave a len).length = len := by
  simp [hardwareCycle]

/-- A bound below a list is a bound below its range. -/
theorem Within.le {xs : List Rat} {q a : Rat} (h : Within xs q) (ha : ∀ x ∈ xs, a ≤ x) : a ≤ q := by
  obtain ⟨⟨lo, hlo, hq⟩, -⟩ := h
  exact (ha lo hlo).trans hq

/-- A bound above a list is a bound above its range. -/
theorem Within.ge {xs : List Rat} {q b : Rat} (h : Within xs q) (hb : ∀ x ∈ xs, x ≤ b) : q ≤ b := by
  obtain ⟨-, hi, hhi, hq⟩ := h
  exact hq.trans (hb hi hhi)

end Sys2Proof.Machine
end

