-- ==== Sys2Proof/Laws/DefaultWave.lean ====
section
/-!
SUPPORT. The default hardware waveform (48_tape_codec.md R405) with hwTau = 1/10, the example of R421: its range, the
signs of its samples, and the boundaries of its cycles at 20 and at 40 samples.
-/

namespace Sys2Proof.Machine

/-- A sampled cycle of the default shape with hwTau = 1/10. -/
noncomputable def defaultCycle (len : Nat) : List Int := hardwareCycle (defaultHwWave (1 / 10)) 127 len

/-- The peak of the default's unscaled response. -/
theorem defaultPeak_bounds : 5 / 7 ≤ Real.tanh (5 / 2) ∧ Real.tanh (5 / 2) < 1 := by
  refine ⟨?_, Real.tanh_lt_one _⟩
  have hpos := Real.exp_pos (5 / 2)
  have hneg := Real.exp_pos (-(5 / 2))
  have hmul : Real.exp (5 / 2) * Real.exp (-(5 / 2)) = 1 := by rw [← Real.exp_add]; norm_num
  have hsq : 7 / 2 ≤ Real.exp (5 / 2) := by linarith [Real.add_one_le_exp (5 / 2 : ℝ)]
  rw [Real.tanh_eq_sinh_div_cosh, Real.sinh_eq, Real.cosh_eq, le_div_iff₀ (by positivity)]
  nlinarith

/-- The default's first half, charging. -/
theorem defaultHwWave_charging {t : ℝ} (h : t < 1 / 2) :
    defaultHwWave (1 / 10) t = (1 - (1 + Real.tanh (5 / 2)) * Real.exp (-(10 * t))) / Real.tanh (5 / 2) := by
  simp only [defaultHwWave, if_pos h]
  ring_nf

/-- The default's second half is the first half negated. -/
theorem defaultHwWave_discharging {t : ℝ} (h0 : 0 ≤ t) (h : t < 1 / 2) :
    defaultHwWave (1 / 10) (t + 1 / 2) = -defaultHwWave (1 / 10) t := by
  have hn : ¬t + 1 / 2 < 1 / 2 := by linarith
  simp only [defaultHwWave, if_pos h, if_neg hn, add_sub_cancel_right]
  ring

/-- The default is clearly negative up to a twentieth of the cycle. -/
theorem defaultHwWave_low {t : ℝ} (h : t ≤ 1 / 20) : defaultHwWave (1 / 10) t ≤ -(1 / 254) := by
  obtain ⟨hp, hp1⟩ := defaultPeak_bounds
  rw [defaultHwWave_charging (by linarith), div_le_iff₀ (by linarith)]
  have hsq : Real.exp (1 / 2) * Real.exp (1 / 2) = Real.exp 1 := by rw [← Real.exp_add]; norm_num
  have hexp : Real.exp (1 / 2) ≤ 33 / 20 := by nlinarith [Real.exp_one_lt_d9, Real.exp_pos (1 / 2)]
  have hmul : Real.exp (-(10 * t)) * Real.exp (10 * t) = 1 := by rw [← Real.exp_add]; norm_num
  have hle : Real.exp (10 * t) ≤ Real.exp (1 / 2) := Real.exp_le_exp.2 (by linarith)
  have he : 20 / 33 ≤ Real.exp (-(10 * t)) := by nlinarith [Real.exp_pos (-(10 * t))]
  nlinarith

/-- The default is clearly positive from three fortieths of the cycle to its middle. -/
theorem defaultHwWave_high {t : ℝ} (h : 3 / 40 ≤ t) (h2 : t < 1 / 2) : 1 / 254 ≤ defaultHwWave (1 / 10) t := by
  obtain ⟨hp, hp1⟩ := defaultPeak_bounds
  rw [defaultHwWave_charging h2, le_div_iff₀ (by linarith)]
  have hexp := Real.quadratic_le_exp_of_nonneg (x := 10 * t) (by linarith)
  have hmul : Real.exp (-(10 * t)) * Real.exp (10 * t) = 1 := by rw [← Real.exp_add]; norm_num
  have he : Real.exp (-(10 * t)) ≤ 32 / 65 := by nlinarith [Real.exp_pos (-(10 * t))]
  nlinarith [Real.exp_pos (-(10 * t))]

/-- The default maps the cycle into [-1, 1], as R405 says. -/
theorem defaultHwWave_shape : HardwareShape (defaultHwWave (1 / 10)) := by
  have half : ∀ t, 0 ≤ t → t < 1 / 2 → |defaultHwWave (1 / 10) t| ≤ 1 := by
    intro t h0 h
    obtain ⟨hp, hp1⟩ := defaultPeak_bounds
    have hpos := Real.exp_pos (5 / 2)
    have hneg := Real.exp_pos (-(5 / 2))
    have hmul : Real.exp (5 / 2) * Real.exp (-(5 / 2)) = 1 := by rw [← Real.exp_add]; norm_num
    have hend : (1 + Real.tanh (5 / 2)) * Real.exp (-5) = 1 - Real.tanh (5 / 2) := by
      have h5 : Real.exp (-5) = Real.exp (-(5 / 2)) * Real.exp (-(5 / 2)) := by rw [← Real.exp_add]; norm_num
      rw [Real.tanh_eq_sinh_div_cosh, Real.sinh_eq, Real.cosh_eq, h5]
      field_simp
      linear_combination (2 * Real.exp (-(5 / 2))) * hmul
    have hlo : Real.exp (-5) ≤ Real.exp (-(10 * t)) := Real.exp_le_exp.2 (by linarith)
    have hhi : Real.exp (-(10 * t)) ≤ 1 := Real.exp_le_one_iff.2 (by linarith)
    rw [defaultHwWave_charging h, abs_le, le_div_iff₀ (by linarith), div_le_iff₀ (by linarith)]
    constructor <;> nlinarith
  intro t h0 h1
  by_cases h : t < 1 / 2
  · exact half t h0 h
  · have := half (t - 1 / 2) (by linarith) (by linarith)
    rwa [← abs_neg, ← defaultHwWave_discharging (by linarith) (by linarith), sub_add_cancel] at this

/-- The sign of a sample of the default cycle. -/
theorem defaultHwWave_sample_neg_iff (t : ℝ) : roundHalfAway (127 * defaultHwWave (1 / 10) t) < 0 ↔
    defaultHwWave (1 / 10) t ≤ -(1 / 254) := by
  rw [roundHalfAway_neg_iff]
  constructor <;> intro <;> linarith

/-- The signs of a default cycle of `2 * half` samples whose first nonnegative sample is `first`. -/
theorem defaultCycle_signs {half first : Nat} (h0 : 0 < half) (h1 : 10 * first ≤ half + 10)
    (h2 : 3 * half ≤ 20 * first) : (defaultCycle (2 * half)).map (fun v => decide (v < 0)) =
      (List.range (2 * half)).map fun k => decide (k < first ∨ half + first ≤ k) := by
  have hr : (0 : ℝ) < half := by exact_mod_cast h0
  have r1 : 10 * (first : ℝ) ≤ half + 10 := by exact_mod_cast h1
  have r2 : 3 * (half : ℝ) ≤ 20 * first := by exact_mod_cast h2
  simp only [defaultCycle, hardwareCycle, List.map_map]
  refine List.map_congr_left fun k hk => ?_
  rw [List.mem_range] at hk
  have hrange : (k : ℝ) < 2 * half := by exact_mod_cast hk
  simp only [Function.comp, decide_eq_decide]
  push_cast
  rw [defaultHwWave_sample_neg_iff]
  by_cases hh : k < half
  · have hkh : (k : ℝ) < half := by exact_mod_cast hh
    have ht : (k : ℝ) / (2 * half) < 1 / 2 := by rw [div_lt_iff₀ (by linarith)]; linarith
    by_cases hf : k < first
    · have hkf : (k : ℝ) + 1 ≤ first := by exact_mod_cast hf
      have := defaultHwWave_low (t := (k : ℝ) / (2 * half)) (by rw [div_le_iff₀ (by linarith)]; linarith)
      exact iff_of_true this (.inl hf)
    · have hkf : (first : ℝ) ≤ k := by exact_mod_cast not_lt.1 hf
      have := defaultHwWave_high (t := (k : ℝ) / (2 * half)) (by rw [le_div_iff₀ (by linarith)]; linarith) ht
      exact iff_of_false (by linarith) (by omega)
  · have hkh : (half : ℝ) ≤ k := by exact_mod_cast not_lt.1 hh
    have hsplit : (k : ℝ) / (2 * half) = (k - half) / (2 * half) + 1 / 2 := by field_simp; ring
    have ht : ((k : ℝ) - half) / (2 * half) < 1 / 2 := by rw [div_lt_iff₀ (by linarith)]; linarith
    have ht0 : 0 ≤ ((k : ℝ) - half) / (2 * half) := div_nonneg (by linarith) (by linarith)
    rw [hsplit, defaultHwWave_discharging ht0 ht, neg_le_neg_iff]
    by_cases hf : k < half + first
    · have hkf : (k : ℝ) + 1 ≤ half + first := by exact_mod_cast hf
      have := defaultHwWave_low (t := ((k : ℝ) - half) / (2 * half)) (by rw [div_le_iff₀ (by linarith)]; linarith)
      exact iff_of_false (by linarith) (by omega)
    · have hkf : (half : ℝ) + first ≤ k := by exact_mod_cast not_lt.1 hf
      have := defaultHwWave_high (t := ((k : ℝ) - half) / (2 * half)) (by rw [le_div_iff₀ (by linarith)]; linarith) ht
      exact iff_of_true this (.inr (by omega))

/-- A cycle with the signs of `defaultCycle_signs`. -/
def signCycle (half first : Nat) : List Int :=
  (List.range (2 * half)).map fun k => if k < first ∨ half + first ≤ k then -1 else 1

/-- The default cycle has the signs of the small one. -/
theorem defaultCycle_signs_eq {half first : Nat} (h0 : 0 < half) (h1 : 10 * first ≤ half + 10)
    (h2 : 3 * half ≤ 20 * first) : (defaultCycle (2 * half)).map (fun v => decide (v < 0)) =
      (signCycle half first).map fun v => decide (v < 0) := by
  rw [defaultCycle_signs h0 h1 h2, signCycle, List.map_map]
  refine List.map_congr_left fun k _ => ?_
  by_cases h : k < first ∨ half + first ≤ k <;> simp [h]

/-- The boundaries of the default cycle at 20 and at 40 samples, after a negative sample: d(20) = 2 and d(40) = 3
(48_tape_codec.md R421). -/
theorem defaultCycle_crossings (u : Int) (h : u < 0) :
    crossings u 0 (defaultCycle 20) = [2] ∧ crossings u 0 (defaultCycle 40) = [3] := by
  have hu : u < 0 ↔ (-1 : Int) < 0 := iff_of_true h (by decide)
  constructor
  · rw [crossings_congr (defaultCycle_signs_eq (half := 10) (first := 2) (by decide) (by decide) (by decide)) hu]
    decide
  · rw [crossings_congr (defaultCycle_signs_eq (half := 20) (first := 3) (by decide) (by decide) (by decide)) hu]
    decide

/-- The last sample of a default cycle is negative. -/
theorem lastSample_defaultCycle_neg (len : Nat) (h : len = 20 ∨ len = 40) : lastSample (defaultCycle len) < 0 := by
  have key : ∀ half first : Nat, 0 < half → 10 * first ≤ half + 10 → 3 * half ≤ 20 * first →
      (signCycle half first).getLast?.map (fun v => decide (v < 0)) = some true →
      lastSample (defaultCycle (2 * half)) < 0 := by
    intro half first h0 h1 h2 hl
    rw [← List.getLast?_map, ← defaultCycle_signs_eq h0 h1 h2, List.getLast?_map] at hl
    unfold lastSample
    cases hx : (defaultCycle (2 * half)).getLast? with
    | none => rw [hx] at hl; exact absurd hl (by simp)
    | some v => rw [hx] at hl; simpa using hl
  rcases h with rfl | rfl
  · exact key 10 2 (by decide) (by decide) (by decide) (by decide)
  · exact key 20 3 (by decide) (by decide) (by decide) (by decide)

end Sys2Proof.Machine
end

