-- ==== Sys2Proof/Laws/State.lean ====
section
/-!
SUPPORT. What every update of State leaves in every field: one lemma per field per update, true by definition, so that
no proof unfolds a record update.
-/

namespace Sys2Proof.Machine

section
variable (s : State)

@[simp] theorem State.setA_a (v : Byte) : (s.setA v).a = v := rfl
@[simp] theorem State.setA_x (v : Byte) : (s.setA v).x = s.x := rfl
@[simp] theorem State.setA_y (v : Byte) : (s.setA v).y = s.y := rfl
@[simp] theorem State.setA_sp (v : Byte) : (s.setA v).sp = s.sp := rfl
@[simp] theorem State.setA_p (v : Byte) : (s.setA v).p = s.p := rfl
@[simp] theorem State.setA_pc (v : Byte) : (s.setA v).pc = s.pc := rfl
@[simp] theorem State.setA_resetLatch (v : Byte) : (s.setA v).resetLatch = s.resetLatch := rfl
@[simp] theorem State.setA_nmiLatch (v : Byte) : (s.setA v).nmiLatch = s.nmiLatch := rfl
@[simp] theorem State.setA_irqLatch (v : Byte) : (s.setA v).irqLatch = s.irqLatch := rfl
@[simp] theorem State.setA_halted (v : Byte) : (s.setA v).halted = s.halted := rfl
@[simp] theorem State.setA_stopRequested (v : Byte) : (s.setA v).stopRequested = s.stopRequested := rfl
@[simp] theorem State.setA_cycles (v : Byte) : (s.setA v).cycles = s.cycles := rfl
@[simp] theorem State.setA_mem (v : Byte) : (s.setA v).mem = s.mem := rfl
@[simp] theorem State.setA_acia (v : Byte) : (s.setA v).acia = s.acia := rfl
@[simp] theorem State.setA_tape (v : Byte) : (s.setA v).tape = s.tape := rfl
@[simp] theorem State.setA_clockMHz (v : Byte) : (s.setA v).clockMHz = s.clockMHz := rfl
@[simp] theorem State.setA_traceOn (v : Byte) : (s.setA v).traceOn = s.traceOn := rfl
@[simp] theorem State.setA_cfg (v : Byte) : (s.setA v).cfg = s.cfg := rfl
@[simp] theorem State.setA_tick (v : Byte) : (s.setA v).tick = s.tick := rfl
@[simp] theorem State.setA_events (v : Byte) : (s.setA v).events = s.events := rfl

@[simp] theorem State.setX_a (v : Byte) : (s.setX v).a = s.a := rfl
@[simp] theorem State.setX_x (v : Byte) : (s.setX v).x = v := rfl
@[simp] theorem State.setX_y (v : Byte) : (s.setX v).y = s.y := rfl
@[simp] theorem State.setX_sp (v : Byte) : (s.setX v).sp = s.sp := rfl
@[simp] theorem State.setX_p (v : Byte) : (s.setX v).p = s.p := rfl
@[simp] theorem State.setX_pc (v : Byte) : (s.setX v).pc = s.pc := rfl
@[simp] theorem State.setX_resetLatch (v : Byte) : (s.setX v).resetLatch = s.resetLatch := rfl
@[simp] theorem State.setX_nmiLatch (v : Byte) : (s.setX v).nmiLatch = s.nmiLatch := rfl
@[simp] theorem State.setX_irqLatch (v : Byte) : (s.setX v).irqLatch = s.irqLatch := rfl
@[simp] theorem State.setX_halted (v : Byte) : (s.setX v).halted = s.halted := rfl
@[simp] theorem State.setX_stopRequested (v : Byte) : (s.setX v).stopRequested = s.stopRequested := rfl
@[simp] theorem State.setX_cycles (v : Byte) : (s.setX v).cycles = s.cycles := rfl
@[simp] theorem State.setX_mem (v : Byte) : (s.setX v).mem = s.mem := rfl
@[simp] theorem State.setX_acia (v : Byte) : (s.setX v).acia = s.acia := rfl
@[simp] theorem State.setX_tape (v : Byte) : (s.setX v).tape = s.tape := rfl
@[simp] theorem State.setX_clockMHz (v : Byte) : (s.setX v).clockMHz = s.clockMHz := rfl
@[simp] theorem State.setX_traceOn (v : Byte) : (s.setX v).traceOn = s.traceOn := rfl
@[simp] theorem State.setX_cfg (v : Byte) : (s.setX v).cfg = s.cfg := rfl
@[simp] theorem State.setX_tick (v : Byte) : (s.setX v).tick = s.tick := rfl
@[simp] theorem State.setX_events (v : Byte) : (s.setX v).events = s.events := rfl

@[simp] theorem State.setY_a (v : Byte) : (s.setY v).a = s.a := rfl
@[simp] theorem State.setY_x (v : Byte) : (s.setY v).x = s.x := rfl
@[simp] theorem State.setY_y (v : Byte) : (s.setY v).y = v := rfl
@[simp] theorem State.setY_sp (v : Byte) : (s.setY v).sp = s.sp := rfl
@[simp] theorem State.setY_p (v : Byte) : (s.setY v).p = s.p := rfl
@[simp] theorem State.setY_pc (v : Byte) : (s.setY v).pc = s.pc := rfl
@[simp] theorem State.setY_resetLatch (v : Byte) : (s.setY v).resetLatch = s.resetLatch := rfl
@[simp] theorem State.setY_nmiLatch (v : Byte) : (s.setY v).nmiLatch = s.nmiLatch := rfl
@[simp] theorem State.setY_irqLatch (v : Byte) : (s.setY v).irqLatch = s.irqLatch := rfl
@[simp] theorem State.setY_halted (v : Byte) : (s.setY v).halted = s.halted := rfl
@[simp] theorem State.setY_stopRequested (v : Byte) : (s.setY v).stopRequested = s.stopRequested := rfl
@[simp] theorem State.setY_cycles (v : Byte) : (s.setY v).cycles = s.cycles := rfl
@[simp] theorem State.setY_mem (v : Byte) : (s.setY v).mem = s.mem := rfl
@[simp] theorem State.setY_acia (v : Byte) : (s.setY v).acia = s.acia := rfl
@[simp] theorem State.setY_tape (v : Byte) : (s.setY v).tape = s.tape := rfl
@[simp] theorem State.setY_clockMHz (v : Byte) : (s.setY v).clockMHz = s.clockMHz := rfl
@[simp] theorem State.setY_traceOn (v : Byte) : (s.setY v).traceOn = s.traceOn := rfl
@[simp] theorem State.setY_cfg (v : Byte) : (s.setY v).cfg = s.cfg := rfl
@[simp] theorem State.setY_tick (v : Byte) : (s.setY v).tick = s.tick := rfl
@[simp] theorem State.setY_events (v : Byte) : (s.setY v).events = s.events := rfl

@[simp] theorem State.setSp_a (v : Byte) : (s.setSp v).a = s.a := rfl
@[simp] theorem State.setSp_x (v : Byte) : (s.setSp v).x = s.x := rfl
@[simp] theorem State.setSp_y (v : Byte) : (s.setSp v).y = s.y := rfl
@[simp] theorem State.setSp_sp (v : Byte) : (s.setSp v).sp = v := rfl
@[simp] theorem State.setSp_p (v : Byte) : (s.setSp v).p = s.p := rfl
@[simp] theorem State.setSp_pc (v : Byte) : (s.setSp v).pc = s.pc := rfl
@[simp] theorem State.setSp_resetLatch (v : Byte) : (s.setSp v).resetLatch = s.resetLatch := rfl
@[simp] theorem State.setSp_nmiLatch (v : Byte) : (s.setSp v).nmiLatch = s.nmiLatch := rfl
@[simp] theorem State.setSp_irqLatch (v : Byte) : (s.setSp v).irqLatch = s.irqLatch := rfl
@[simp] theorem State.setSp_halted (v : Byte) : (s.setSp v).halted = s.halted := rfl
@[simp] theorem State.setSp_stopRequested (v : Byte) : (s.setSp v).stopRequested = s.stopRequested := rfl
@[simp] theorem State.setSp_cycles (v : Byte) : (s.setSp v).cycles = s.cycles := rfl
@[simp] theorem State.setSp_mem (v : Byte) : (s.setSp v).mem = s.mem := rfl
@[simp] theorem State.setSp_acia (v : Byte) : (s.setSp v).acia = s.acia := rfl
@[simp] theorem State.setSp_tape (v : Byte) : (s.setSp v).tape = s.tape := rfl
@[simp] theorem State.setSp_clockMHz (v : Byte) : (s.setSp v).clockMHz = s.clockMHz := rfl
@[simp] theorem State.setSp_traceOn (v : Byte) : (s.setSp v).traceOn = s.traceOn := rfl
@[simp] theorem State.setSp_cfg (v : Byte) : (s.setSp v).cfg = s.cfg := rfl
@[simp] theorem State.setSp_tick (v : Byte) : (s.setSp v).tick = s.tick := rfl
@[simp] theorem State.setSp_events (v : Byte) : (s.setSp v).events = s.events := rfl

@[simp] theorem State.setP_a (v : Byte) : (s.setP v).a = s.a := rfl
@[simp] theorem State.setP_x (v : Byte) : (s.setP v).x = s.x := rfl
@[simp] theorem State.setP_y (v : Byte) : (s.setP v).y = s.y := rfl
@[simp] theorem State.setP_sp (v : Byte) : (s.setP v).sp = s.sp := rfl
@[simp] theorem State.setP_p (v : Byte) : (s.setP v).p = v := rfl
@[simp] theorem State.setP_pc (v : Byte) : (s.setP v).pc = s.pc := rfl
@[simp] theorem State.setP_resetLatch (v : Byte) : (s.setP v).resetLatch = s.resetLatch := rfl
@[simp] theorem State.setP_nmiLatch (v : Byte) : (s.setP v).nmiLatch = s.nmiLatch := rfl
@[simp] theorem State.setP_irqLatch (v : Byte) : (s.setP v).irqLatch = s.irqLatch := rfl
@[simp] theorem State.setP_halted (v : Byte) : (s.setP v).halted = s.halted := rfl
@[simp] theorem State.setP_stopRequested (v : Byte) : (s.setP v).stopRequested = s.stopRequested := rfl
@[simp] theorem State.setP_cycles (v : Byte) : (s.setP v).cycles = s.cycles := rfl
@[simp] theorem State.setP_mem (v : Byte) : (s.setP v).mem = s.mem := rfl
@[simp] theorem State.setP_acia (v : Byte) : (s.setP v).acia = s.acia := rfl
@[simp] theorem State.setP_tape (v : Byte) : (s.setP v).tape = s.tape := rfl
@[simp] theorem State.setP_clockMHz (v : Byte) : (s.setP v).clockMHz = s.clockMHz := rfl
@[simp] theorem State.setP_traceOn (v : Byte) : (s.setP v).traceOn = s.traceOn := rfl
@[simp] theorem State.setP_cfg (v : Byte) : (s.setP v).cfg = s.cfg := rfl
@[simp] theorem State.setP_tick (v : Byte) : (s.setP v).tick = s.tick := rfl
@[simp] theorem State.setP_events (v : Byte) : (s.setP v).events = s.events := rfl

@[simp] theorem State.setPc_a (w : Addr) : (s.setPc w).a = s.a := rfl
@[simp] theorem State.setPc_x (w : Addr) : (s.setPc w).x = s.x := rfl
@[simp] theorem State.setPc_y (w : Addr) : (s.setPc w).y = s.y := rfl
@[simp] theorem State.setPc_sp (w : Addr) : (s.setPc w).sp = s.sp := rfl
@[simp] theorem State.setPc_p (w : Addr) : (s.setPc w).p = s.p := rfl
@[simp] theorem State.setPc_pc (w : Addr) : (s.setPc w).pc = w := rfl
@[simp] theorem State.setPc_resetLatch (w : Addr) : (s.setPc w).resetLatch = s.resetLatch := rfl
@[simp] theorem State.setPc_nmiLatch (w : Addr) : (s.setPc w).nmiLatch = s.nmiLatch := rfl
@[simp] theorem State.setPc_irqLatch (w : Addr) : (s.setPc w).irqLatch = s.irqLatch := rfl
@[simp] theorem State.setPc_halted (w : Addr) : (s.setPc w).halted = s.halted := rfl
@[simp] theorem State.setPc_stopRequested (w : Addr) : (s.setPc w).stopRequested = s.stopRequested := rfl
@[simp] theorem State.setPc_cycles (w : Addr) : (s.setPc w).cycles = s.cycles := rfl
@[simp] theorem State.setPc_mem (w : Addr) : (s.setPc w).mem = s.mem := rfl
@[simp] theorem State.setPc_acia (w : Addr) : (s.setPc w).acia = s.acia := rfl
@[simp] theorem State.setPc_tape (w : Addr) : (s.setPc w).tape = s.tape := rfl
@[simp] theorem State.setPc_clockMHz (w : Addr) : (s.setPc w).clockMHz = s.clockMHz := rfl
@[simp] theorem State.setPc_traceOn (w : Addr) : (s.setPc w).traceOn = s.traceOn := rfl
@[simp] theorem State.setPc_cfg (w : Addr) : (s.setPc w).cfg = s.cfg := rfl
@[simp] theorem State.setPc_tick (w : Addr) : (s.setPc w).tick = s.tick := rfl
@[simp] theorem State.setPc_events (w : Addr) : (s.setPc w).events = s.events := rfl

@[simp] theorem State.addCycles_a (n : Nat) : (s.addCycles n).a = s.a := rfl
@[simp] theorem State.addCycles_x (n : Nat) : (s.addCycles n).x = s.x := rfl
@[simp] theorem State.addCycles_y (n : Nat) : (s.addCycles n).y = s.y := rfl
@[simp] theorem State.addCycles_sp (n : Nat) : (s.addCycles n).sp = s.sp := rfl
@[simp] theorem State.addCycles_p (n : Nat) : (s.addCycles n).p = s.p := rfl
@[simp] theorem State.addCycles_pc (n : Nat) : (s.addCycles n).pc = s.pc := rfl
@[simp] theorem State.addCycles_resetLatch (n : Nat) : (s.addCycles n).resetLatch = s.resetLatch := rfl
@[simp] theorem State.addCycles_nmiLatch (n : Nat) : (s.addCycles n).nmiLatch = s.nmiLatch := rfl
@[simp] theorem State.addCycles_irqLatch (n : Nat) : (s.addCycles n).irqLatch = s.irqLatch := rfl
@[simp] theorem State.addCycles_halted (n : Nat) : (s.addCycles n).halted = s.halted := rfl
@[simp] theorem State.addCycles_stopRequested (n : Nat) : (s.addCycles n).stopRequested = s.stopRequested := rfl
@[simp] theorem State.addCycles_cycles (n : Nat) : (s.addCycles n).cycles = s.cycles + n := rfl
@[simp] theorem State.addCycles_mem (n : Nat) : (s.addCycles n).mem = s.mem := rfl
@[simp] theorem State.addCycles_acia (n : Nat) : (s.addCycles n).acia = s.acia := rfl
@[simp] theorem State.addCycles_tape (n : Nat) : (s.addCycles n).tape = s.tape := rfl
@[simp] theorem State.addCycles_clockMHz (n : Nat) : (s.addCycles n).clockMHz = s.clockMHz := rfl
@[simp] theorem State.addCycles_traceOn (n : Nat) : (s.addCycles n).traceOn = s.traceOn := rfl
@[simp] theorem State.addCycles_cfg (n : Nat) : (s.addCycles n).cfg = s.cfg := rfl
@[simp] theorem State.addCycles_tick (n : Nat) : (s.addCycles n).tick = s.tick := rfl
@[simp] theorem State.addCycles_events (n : Nat) : (s.addCycles n).events = s.events := rfl

@[simp] theorem State.setMem_a (m : Mem) : (s.setMem m).a = s.a := rfl
@[simp] theorem State.setMem_x (m : Mem) : (s.setMem m).x = s.x := rfl
@[simp] theorem State.setMem_y (m : Mem) : (s.setMem m).y = s.y := rfl
@[simp] theorem State.setMem_sp (m : Mem) : (s.setMem m).sp = s.sp := rfl
@[simp] theorem State.setMem_p (m : Mem) : (s.setMem m).p = s.p := rfl
@[simp] theorem State.setMem_pc (m : Mem) : (s.setMem m).pc = s.pc := rfl
@[simp] theorem State.setMem_resetLatch (m : Mem) : (s.setMem m).resetLatch = s.resetLatch := rfl
@[simp] theorem State.setMem_nmiLatch (m : Mem) : (s.setMem m).nmiLatch = s.nmiLatch := rfl
@[simp] theorem State.setMem_irqLatch (m : Mem) : (s.setMem m).irqLatch = s.irqLatch := rfl
@[simp] theorem State.setMem_halted (m : Mem) : (s.setMem m).halted = s.halted := rfl
@[simp] theorem State.setMem_stopRequested (m : Mem) : (s.setMem m).stopRequested = s.stopRequested := rfl
@[simp] theorem State.setMem_cycles (m : Mem) : (s.setMem m).cycles = s.cycles := rfl
@[simp] theorem State.setMem_mem (m : Mem) : (s.setMem m).mem = m := rfl
@[simp] theorem State.setMem_acia (m : Mem) : (s.setMem m).acia = s.acia := rfl
@[simp] theorem State.setMem_tape (m : Mem) : (s.setMem m).tape = s.tape := rfl
@[simp] theorem State.setMem_clockMHz (m : Mem) : (s.setMem m).clockMHz = s.clockMHz := rfl
@[simp] theorem State.setMem_traceOn (m : Mem) : (s.setMem m).traceOn = s.traceOn := rfl
@[simp] theorem State.setMem_cfg (m : Mem) : (s.setMem m).cfg = s.cfg := rfl
@[simp] theorem State.setMem_tick (m : Mem) : (s.setMem m).tick = s.tick := rfl
@[simp] theorem State.setMem_events (m : Mem) : (s.setMem m).events = s.events := rfl

@[simp] theorem State.setAcia_a (d : Acia) : (s.setAcia d).a = s.a := rfl
@[simp] theorem State.setAcia_x (d : Acia) : (s.setAcia d).x = s.x := rfl
@[simp] theorem State.setAcia_y (d : Acia) : (s.setAcia d).y = s.y := rfl
@[simp] theorem State.setAcia_sp (d : Acia) : (s.setAcia d).sp = s.sp := rfl
@[simp] theorem State.setAcia_p (d : Acia) : (s.setAcia d).p = s.p := rfl
@[simp] theorem State.setAcia_pc (d : Acia) : (s.setAcia d).pc = s.pc := rfl
@[simp] theorem State.setAcia_resetLatch (d : Acia) : (s.setAcia d).resetLatch = s.resetLatch := rfl
@[simp] theorem State.setAcia_nmiLatch (d : Acia) : (s.setAcia d).nmiLatch = s.nmiLatch := rfl
@[simp] theorem State.setAcia_irqLatch (d : Acia) : (s.setAcia d).irqLatch = s.irqLatch := rfl
@[simp] theorem State.setAcia_halted (d : Acia) : (s.setAcia d).halted = s.halted := rfl
@[simp] theorem State.setAcia_stopRequested (d : Acia) : (s.setAcia d).stopRequested = s.stopRequested := rfl
@[simp] theorem State.setAcia_cycles (d : Acia) : (s.setAcia d).cycles = s.cycles := rfl
@[simp] theorem State.setAcia_mem (d : Acia) : (s.setAcia d).mem = s.mem := rfl
@[simp] theorem State.setAcia_acia (d : Acia) : (s.setAcia d).acia = d := rfl
@[simp] theorem State.setAcia_tape (d : Acia) : (s.setAcia d).tape = s.tape := rfl
@[simp] theorem State.setAcia_clockMHz (d : Acia) : (s.setAcia d).clockMHz = s.clockMHz := rfl
@[simp] theorem State.setAcia_traceOn (d : Acia) : (s.setAcia d).traceOn = s.traceOn := rfl
@[simp] theorem State.setAcia_cfg (d : Acia) : (s.setAcia d).cfg = s.cfg := rfl
@[simp] theorem State.setAcia_tick (d : Acia) : (s.setAcia d).tick = s.tick := rfl
@[simp] theorem State.setAcia_events (d : Acia) : (s.setAcia d).events = s.events := rfl

@[simp] theorem State.setTape_a (t : Session) : (s.setTape t).a = s.a := rfl
@[simp] theorem State.setTape_x (t : Session) : (s.setTape t).x = s.x := rfl
@[simp] theorem State.setTape_y (t : Session) : (s.setTape t).y = s.y := rfl
@[simp] theorem State.setTape_sp (t : Session) : (s.setTape t).sp = s.sp := rfl
@[simp] theorem State.setTape_p (t : Session) : (s.setTape t).p = s.p := rfl
@[simp] theorem State.setTape_pc (t : Session) : (s.setTape t).pc = s.pc := rfl
@[simp] theorem State.setTape_resetLatch (t : Session) : (s.setTape t).resetLatch = s.resetLatch := rfl
@[simp] theorem State.setTape_nmiLatch (t : Session) : (s.setTape t).nmiLatch = s.nmiLatch := rfl
@[simp] theorem State.setTape_irqLatch (t : Session) : (s.setTape t).irqLatch = s.irqLatch := rfl
@[simp] theorem State.setTape_halted (t : Session) : (s.setTape t).halted = s.halted := rfl
@[simp] theorem State.setTape_stopRequested (t : Session) : (s.setTape t).stopRequested = s.stopRequested := rfl
@[simp] theorem State.setTape_cycles (t : Session) : (s.setTape t).cycles = s.cycles := rfl
@[simp] theorem State.setTape_mem (t : Session) : (s.setTape t).mem = s.mem := rfl
@[simp] theorem State.setTape_acia (t : Session) : (s.setTape t).acia = s.acia := rfl
@[simp] theorem State.setTape_tape (t : Session) : (s.setTape t).tape = t := rfl
@[simp] theorem State.setTape_clockMHz (t : Session) : (s.setTape t).clockMHz = s.clockMHz := rfl
@[simp] theorem State.setTape_traceOn (t : Session) : (s.setTape t).traceOn = s.traceOn := rfl
@[simp] theorem State.setTape_cfg (t : Session) : (s.setTape t).cfg = s.cfg := rfl
@[simp] theorem State.setTape_tick (t : Session) : (s.setTape t).tick = s.tick := rfl
@[simp] theorem State.setTape_events (t : Session) : (s.setTape t).events = s.events := rfl

@[simp] theorem State.setHalted_a (b : Bool) : (s.setHalted b).a = s.a := rfl
@[simp] theorem State.setHalted_x (b : Bool) : (s.setHalted b).x = s.x := rfl
@[simp] theorem State.setHalted_y (b : Bool) : (s.setHalted b).y = s.y := rfl
@[simp] theorem State.setHalted_sp (b : Bool) : (s.setHalted b).sp = s.sp := rfl
@[simp] theorem State.setHalted_p (b : Bool) : (s.setHalted b).p = s.p := rfl
@[simp] theorem State.setHalted_pc (b : Bool) : (s.setHalted b).pc = s.pc := rfl
@[simp] theorem State.setHalted_resetLatch (b : Bool) : (s.setHalted b).resetLatch = s.resetLatch := rfl
@[simp] theorem State.setHalted_nmiLatch (b : Bool) : (s.setHalted b).nmiLatch = s.nmiLatch := rfl
@[simp] theorem State.setHalted_irqLatch (b : Bool) : (s.setHalted b).irqLatch = s.irqLatch := rfl
@[simp] theorem State.setHalted_halted (b : Bool) : (s.setHalted b).halted = b := rfl
@[simp] theorem State.setHalted_stopRequested (b : Bool) : (s.setHalted b).stopRequested = s.stopRequested := rfl
@[simp] theorem State.setHalted_cycles (b : Bool) : (s.setHalted b).cycles = s.cycles := rfl
@[simp] theorem State.setHalted_mem (b : Bool) : (s.setHalted b).mem = s.mem := rfl
@[simp] theorem State.setHalted_acia (b : Bool) : (s.setHalted b).acia = s.acia := rfl
@[simp] theorem State.setHalted_tape (b : Bool) : (s.setHalted b).tape = s.tape := rfl
@[simp] theorem State.setHalted_clockMHz (b : Bool) : (s.setHalted b).clockMHz = s.clockMHz := rfl
@[simp] theorem State.setHalted_traceOn (b : Bool) : (s.setHalted b).traceOn = s.traceOn := rfl
@[simp] theorem State.setHalted_cfg (b : Bool) : (s.setHalted b).cfg = s.cfg := rfl
@[simp] theorem State.setHalted_tick (b : Bool) : (s.setHalted b).tick = s.tick := rfl
@[simp] theorem State.setHalted_events (b : Bool) : (s.setHalted b).events = s.events := rfl

@[simp] theorem State.setLatches_a (r n i : Bool) : (s.setLatches r n i).a = s.a := rfl
@[simp] theorem State.setLatches_x (r n i : Bool) : (s.setLatches r n i).x = s.x := rfl
@[simp] theorem State.setLatches_y (r n i : Bool) : (s.setLatches r n i).y = s.y := rfl
@[simp] theorem State.setLatches_sp (r n i : Bool) : (s.setLatches r n i).sp = s.sp := rfl
@[simp] theorem State.setLatches_p (r n i : Bool) : (s.setLatches r n i).p = s.p := rfl
@[simp] theorem State.setLatches_pc (r n i : Bool) : (s.setLatches r n i).pc = s.pc := rfl
@[simp] theorem State.setLatches_resetLatch (r n i : Bool) : (s.setLatches r n i).resetLatch = r := rfl
@[simp] theorem State.setLatches_nmiLatch (r n i : Bool) : (s.setLatches r n i).nmiLatch = n := rfl
@[simp] theorem State.setLatches_irqLatch (r n i : Bool) : (s.setLatches r n i).irqLatch = i := rfl
@[simp] theorem State.setLatches_halted (r n i : Bool) : (s.setLatches r n i).halted = s.halted := rfl
@[simp] theorem State.setLatches_stopRequested (r n i : Bool) : (s.setLatches r n i).stopRequested = s.stopRequested := rfl
@[simp] theorem State.setLatches_cycles (r n i : Bool) : (s.setLatches r n i).cycles = s.cycles := rfl
@[simp] theorem State.setLatches_mem (r n i : Bool) : (s.setLatches r n i).mem = s.mem := rfl
@[simp] theorem State.setLatches_acia (r n i : Bool) : (s.setLatches r n i).acia = s.acia := rfl
@[simp] theorem State.setLatches_tape (r n i : Bool) : (s.setLatches r n i).tape = s.tape := rfl
@[simp] theorem State.setLatches_clockMHz (r n i : Bool) : (s.setLatches r n i).clockMHz = s.clockMHz := rfl
@[simp] theorem State.setLatches_traceOn (r n i : Bool) : (s.setLatches r n i).traceOn = s.traceOn := rfl
@[simp] theorem State.setLatches_cfg (r n i : Bool) : (s.setLatches r n i).cfg = s.cfg := rfl
@[simp] theorem State.setLatches_tick (r n i : Bool) : (s.setLatches r n i).tick = s.tick := rfl
@[simp] theorem State.setLatches_events (r n i : Bool) : (s.setLatches r n i).events = s.events := rfl

@[simp] theorem State.emit_a (e : Event) : (s.emit e).a = s.a := rfl
@[simp] theorem State.emit_x (e : Event) : (s.emit e).x = s.x := rfl
@[simp] theorem State.emit_y (e : Event) : (s.emit e).y = s.y := rfl
@[simp] theorem State.emit_sp (e : Event) : (s.emit e).sp = s.sp := rfl
@[simp] theorem State.emit_p (e : Event) : (s.emit e).p = s.p := rfl
@[simp] theorem State.emit_pc (e : Event) : (s.emit e).pc = s.pc := rfl
@[simp] theorem State.emit_resetLatch (e : Event) : (s.emit e).resetLatch = s.resetLatch := rfl
@[simp] theorem State.emit_nmiLatch (e : Event) : (s.emit e).nmiLatch = s.nmiLatch := rfl
@[simp] theorem State.emit_irqLatch (e : Event) : (s.emit e).irqLatch = s.irqLatch := rfl
@[simp] theorem State.emit_halted (e : Event) : (s.emit e).halted = s.halted := rfl
@[simp] theorem State.emit_stopRequested (e : Event) : (s.emit e).stopRequested = s.stopRequested := rfl
@[simp] theorem State.emit_cycles (e : Event) : (s.emit e).cycles = s.cycles := rfl
@[simp] theorem State.emit_mem (e : Event) : (s.emit e).mem = s.mem := rfl
@[simp] theorem State.emit_acia (e : Event) : (s.emit e).acia = s.acia := rfl
@[simp] theorem State.emit_tape (e : Event) : (s.emit e).tape = s.tape := rfl
@[simp] theorem State.emit_clockMHz (e : Event) : (s.emit e).clockMHz = s.clockMHz := rfl
@[simp] theorem State.emit_traceOn (e : Event) : (s.emit e).traceOn = s.traceOn := rfl
@[simp] theorem State.emit_cfg (e : Event) : (s.emit e).cfg = s.cfg := rfl
@[simp] theorem State.emit_tick (e : Event) : (s.emit e).tick = s.tick := rfl
@[simp] theorem State.emit_events (e : Event) : (s.emit e).events = e :: s.events := rfl

end

-- The updates of P built on `setP`.

section
variable (s : State)

@[simp] theorem State.setFlag_a (f : Flag) (b : Bool) : (s.setFlag f b).a = s.a := rfl
@[simp] theorem State.setFlag_x (f : Flag) (b : Bool) : (s.setFlag f b).x = s.x := rfl
@[simp] theorem State.setFlag_y (f : Flag) (b : Bool) : (s.setFlag f b).y = s.y := rfl
@[simp] theorem State.setFlag_sp (f : Flag) (b : Bool) : (s.setFlag f b).sp = s.sp := rfl
@[simp] theorem State.setFlag_p (f : Flag) (b : Bool) : (s.setFlag f b).p = Machine.setFlag s.p f b := rfl
@[simp] theorem State.setFlag_pc (f : Flag) (b : Bool) : (s.setFlag f b).pc = s.pc := rfl
@[simp] theorem State.setFlag_resetLatch (f : Flag) (b : Bool) : (s.setFlag f b).resetLatch = s.resetLatch := rfl
@[simp] theorem State.setFlag_nmiLatch (f : Flag) (b : Bool) : (s.setFlag f b).nmiLatch = s.nmiLatch := rfl
@[simp] theorem State.setFlag_irqLatch (f : Flag) (b : Bool) : (s.setFlag f b).irqLatch = s.irqLatch := rfl
@[simp] theorem State.setFlag_halted (f : Flag) (b : Bool) : (s.setFlag f b).halted = s.halted := rfl
@[simp] theorem State.setFlag_stopRequested (f : Flag) (b : Bool) : (s.setFlag f b).stopRequested = s.stopRequested := rfl
@[simp] theorem State.setFlag_cycles (f : Flag) (b : Bool) : (s.setFlag f b).cycles = s.cycles := rfl
@[simp] theorem State.setFlag_mem (f : Flag) (b : Bool) : (s.setFlag f b).mem = s.mem := rfl
@[simp] theorem State.setFlag_acia (f : Flag) (b : Bool) : (s.setFlag f b).acia = s.acia := rfl
@[simp] theorem State.setFlag_tape (f : Flag) (b : Bool) : (s.setFlag f b).tape = s.tape := rfl
@[simp] theorem State.setFlag_clockMHz (f : Flag) (b : Bool) : (s.setFlag f b).clockMHz = s.clockMHz := rfl
@[simp] theorem State.setFlag_traceOn (f : Flag) (b : Bool) : (s.setFlag f b).traceOn = s.traceOn := rfl
@[simp] theorem State.setFlag_cfg (f : Flag) (b : Bool) : (s.setFlag f b).cfg = s.cfg := rfl
@[simp] theorem State.setFlag_tick (f : Flag) (b : Bool) : (s.setFlag f b).tick = s.tick := rfl
@[simp] theorem State.setFlag_events (f : Flag) (b : Bool) : (s.setFlag f b).events = s.events := rfl

@[simp] theorem State.writeP_a (v : Byte) : (s.writeP v).a = s.a := rfl
@[simp] theorem State.writeP_x (v : Byte) : (s.writeP v).x = s.x := rfl
@[simp] theorem State.writeP_y (v : Byte) : (s.writeP v).y = s.y := rfl
@[simp] theorem State.writeP_sp (v : Byte) : (s.writeP v).sp = s.sp := rfl
@[simp] theorem State.writeP_p (v : Byte) : (s.writeP v).p = v ||| 0x20 := rfl
@[simp] theorem State.writeP_pc (v : Byte) : (s.writeP v).pc = s.pc := rfl
@[simp] theorem State.writeP_resetLatch (v : Byte) : (s.writeP v).resetLatch = s.resetLatch := rfl
@[simp] theorem State.writeP_nmiLatch (v : Byte) : (s.writeP v).nmiLatch = s.nmiLatch := rfl
@[simp] theorem State.writeP_irqLatch (v : Byte) : (s.writeP v).irqLatch = s.irqLatch := rfl
@[simp] theorem State.writeP_halted (v : Byte) : (s.writeP v).halted = s.halted := rfl
@[simp] theorem State.writeP_stopRequested (v : Byte) : (s.writeP v).stopRequested = s.stopRequested := rfl
@[simp] theorem State.writeP_cycles (v : Byte) : (s.writeP v).cycles = s.cycles := rfl
@[simp] theorem State.writeP_mem (v : Byte) : (s.writeP v).mem = s.mem := rfl
@[simp] theorem State.writeP_acia (v : Byte) : (s.writeP v).acia = s.acia := rfl
@[simp] theorem State.writeP_tape (v : Byte) : (s.writeP v).tape = s.tape := rfl
@[simp] theorem State.writeP_clockMHz (v : Byte) : (s.writeP v).clockMHz = s.clockMHz := rfl
@[simp] theorem State.writeP_traceOn (v : Byte) : (s.writeP v).traceOn = s.traceOn := rfl
@[simp] theorem State.writeP_cfg (v : Byte) : (s.writeP v).cfg = s.cfg := rfl
@[simp] theorem State.writeP_tick (v : Byte) : (s.writeP v).tick = s.tick := rfl
@[simp] theorem State.writeP_events (v : Byte) : (s.writeP v).events = s.events := rfl

@[simp] theorem State.applyFlags_a (o : FlagOut) : (s.applyFlags o).a = s.a := rfl
@[simp] theorem State.applyFlags_x (o : FlagOut) : (s.applyFlags o).x = s.x := rfl
@[simp] theorem State.applyFlags_y (o : FlagOut) : (s.applyFlags o).y = s.y := rfl
@[simp] theorem State.applyFlags_sp (o : FlagOut) : (s.applyFlags o).sp = s.sp := rfl
@[simp] theorem State.applyFlags_p (o : FlagOut) : (s.applyFlags o).p = Machine.applyFlags s.p o := rfl
@[simp] theorem State.applyFlags_pc (o : FlagOut) : (s.applyFlags o).pc = s.pc := rfl
@[simp] theorem State.applyFlags_resetLatch (o : FlagOut) : (s.applyFlags o).resetLatch = s.resetLatch := rfl
@[simp] theorem State.applyFlags_nmiLatch (o : FlagOut) : (s.applyFlags o).nmiLatch = s.nmiLatch := rfl
@[simp] theorem State.applyFlags_irqLatch (o : FlagOut) : (s.applyFlags o).irqLatch = s.irqLatch := rfl
@[simp] theorem State.applyFlags_halted (o : FlagOut) : (s.applyFlags o).halted = s.halted := rfl
@[simp] theorem State.applyFlags_stopRequested (o : FlagOut) : (s.applyFlags o).stopRequested = s.stopRequested := rfl
@[simp] theorem State.applyFlags_cycles (o : FlagOut) : (s.applyFlags o).cycles = s.cycles := rfl
@[simp] theorem State.applyFlags_mem (o : FlagOut) : (s.applyFlags o).mem = s.mem := rfl
@[simp] theorem State.applyFlags_acia (o : FlagOut) : (s.applyFlags o).acia = s.acia := rfl
@[simp] theorem State.applyFlags_tape (o : FlagOut) : (s.applyFlags o).tape = s.tape := rfl
@[simp] theorem State.applyFlags_clockMHz (o : FlagOut) : (s.applyFlags o).clockMHz = s.clockMHz := rfl
@[simp] theorem State.applyFlags_traceOn (o : FlagOut) : (s.applyFlags o).traceOn = s.traceOn := rfl
@[simp] theorem State.applyFlags_cfg (o : FlagOut) : (s.applyFlags o).cfg = s.cfg := rfl
@[simp] theorem State.applyFlags_tick (o : FlagOut) : (s.applyFlags o).tick = s.tick := rfl
@[simp] theorem State.applyFlags_events (o : FlagOut) : (s.applyFlags o).events = s.events := rfl

@[simp] theorem State.setNZ_a (r : Byte) : (s.setNZ r).a = s.a := rfl
@[simp] theorem State.setNZ_x (r : Byte) : (s.setNZ r).x = s.x := rfl
@[simp] theorem State.setNZ_y (r : Byte) : (s.setNZ r).y = s.y := rfl
@[simp] theorem State.setNZ_sp (r : Byte) : (s.setNZ r).sp = s.sp := rfl
@[simp] theorem State.setNZ_p (r : Byte) : (s.setNZ r).p = Machine.applyFlags s.p (nzOf r) := rfl
@[simp] theorem State.setNZ_pc (r : Byte) : (s.setNZ r).pc = s.pc := rfl
@[simp] theorem State.setNZ_resetLatch (r : Byte) : (s.setNZ r).resetLatch = s.resetLatch := rfl
@[simp] theorem State.setNZ_nmiLatch (r : Byte) : (s.setNZ r).nmiLatch = s.nmiLatch := rfl
@[simp] theorem State.setNZ_irqLatch (r : Byte) : (s.setNZ r).irqLatch = s.irqLatch := rfl
@[simp] theorem State.setNZ_halted (r : Byte) : (s.setNZ r).halted = s.halted := rfl
@[simp] theorem State.setNZ_stopRequested (r : Byte) : (s.setNZ r).stopRequested = s.stopRequested := rfl
@[simp] theorem State.setNZ_cycles (r : Byte) : (s.setNZ r).cycles = s.cycles := rfl
@[simp] theorem State.setNZ_mem (r : Byte) : (s.setNZ r).mem = s.mem := rfl
@[simp] theorem State.setNZ_acia (r : Byte) : (s.setNZ r).acia = s.acia := rfl
@[simp] theorem State.setNZ_tape (r : Byte) : (s.setNZ r).tape = s.tape := rfl
@[simp] theorem State.setNZ_clockMHz (r : Byte) : (s.setNZ r).clockMHz = s.clockMHz := rfl
@[simp] theorem State.setNZ_traceOn (r : Byte) : (s.setNZ r).traceOn = s.traceOn := rfl
@[simp] theorem State.setNZ_cfg (r : Byte) : (s.setNZ r).cfg = s.cfg := rfl
@[simp] theorem State.setNZ_tick (r : Byte) : (s.setNZ r).tick = s.tick := rfl
@[simp] theorem State.setNZ_events (r : Byte) : (s.setNZ r).events = s.events := rfl

end

-- The end of an instruction.

section
variable (s : State)

@[simp] theorem jumpTo_a (w : Addr) (n : Nat) : (jumpTo w n s).a = s.a := rfl
@[simp] theorem jumpTo_x (w : Addr) (n : Nat) : (jumpTo w n s).x = s.x := rfl
@[simp] theorem jumpTo_y (w : Addr) (n : Nat) : (jumpTo w n s).y = s.y := rfl
@[simp] theorem jumpTo_sp (w : Addr) (n : Nat) : (jumpTo w n s).sp = s.sp := rfl
@[simp] theorem jumpTo_p (w : Addr) (n : Nat) : (jumpTo w n s).p = s.p := rfl
@[simp] theorem jumpTo_pc (w : Addr) (n : Nat) : (jumpTo w n s).pc = w := rfl
@[simp] theorem jumpTo_resetLatch (w : Addr) (n : Nat) : (jumpTo w n s).resetLatch = s.resetLatch := rfl
@[simp] theorem jumpTo_nmiLatch (w : Addr) (n : Nat) : (jumpTo w n s).nmiLatch = s.nmiLatch := rfl
@[simp] theorem jumpTo_irqLatch (w : Addr) (n : Nat) : (jumpTo w n s).irqLatch = s.irqLatch := rfl
@[simp] theorem jumpTo_halted (w : Addr) (n : Nat) : (jumpTo w n s).halted = s.halted := rfl
@[simp] theorem jumpTo_stopRequested (w : Addr) (n : Nat) : (jumpTo w n s).stopRequested = s.stopRequested := rfl
@[simp] theorem jumpTo_cycles (w : Addr) (n : Nat) : (jumpTo w n s).cycles = s.cycles + n := rfl
@[simp] theorem jumpTo_mem (w : Addr) (n : Nat) : (jumpTo w n s).mem = s.mem := rfl
@[simp] theorem jumpTo_acia (w : Addr) (n : Nat) : (jumpTo w n s).acia = s.acia := rfl
@[simp] theorem jumpTo_tape (w : Addr) (n : Nat) : (jumpTo w n s).tape = s.tape := rfl
@[simp] theorem jumpTo_clockMHz (w : Addr) (n : Nat) : (jumpTo w n s).clockMHz = s.clockMHz := rfl
@[simp] theorem jumpTo_traceOn (w : Addr) (n : Nat) : (jumpTo w n s).traceOn = s.traceOn := rfl
@[simp] theorem jumpTo_cfg (w : Addr) (n : Nat) : (jumpTo w n s).cfg = s.cfg := rfl
@[simp] theorem jumpTo_tick (w : Addr) (n : Nat) : (jumpTo w n s).tick = s.tick := rfl
@[simp] theorem jumpTo_events (w : Addr) (n : Nat) : (jumpTo w n s).events = s.events := rfl

@[simp] theorem advance_a (len n : Nat) : (advance len n s).a = s.a := rfl
@[simp] theorem advance_x (len n : Nat) : (advance len n s).x = s.x := rfl
@[simp] theorem advance_y (len n : Nat) : (advance len n s).y = s.y := rfl
@[simp] theorem advance_sp (len n : Nat) : (advance len n s).sp = s.sp := rfl
@[simp] theorem advance_p (len n : Nat) : (advance len n s).p = s.p := rfl
@[simp] theorem advance_pc (len n : Nat) : (advance len n s).pc = s.pc + BitVec.ofNat 16 len := rfl
@[simp] theorem advance_resetLatch (len n : Nat) : (advance len n s).resetLatch = s.resetLatch := rfl
@[simp] theorem advance_nmiLatch (len n : Nat) : (advance len n s).nmiLatch = s.nmiLatch := rfl
@[simp] theorem advance_irqLatch (len n : Nat) : (advance len n s).irqLatch = s.irqLatch := rfl
@[simp] theorem advance_halted (len n : Nat) : (advance len n s).halted = s.halted := rfl
@[simp] theorem advance_stopRequested (len n : Nat) : (advance len n s).stopRequested = s.stopRequested := rfl
@[simp] theorem advance_cycles (len n : Nat) : (advance len n s).cycles = s.cycles + n := rfl
@[simp] theorem advance_mem (len n : Nat) : (advance len n s).mem = s.mem := rfl
@[simp] theorem advance_acia (len n : Nat) : (advance len n s).acia = s.acia := rfl
@[simp] theorem advance_tape (len n : Nat) : (advance len n s).tape = s.tape := rfl
@[simp] theorem advance_clockMHz (len n : Nat) : (advance len n s).clockMHz = s.clockMHz := rfl
@[simp] theorem advance_traceOn (len n : Nat) : (advance len n s).traceOn = s.traceOn := rfl
@[simp] theorem advance_cfg (len n : Nat) : (advance len n s).cfg = s.cfg := rfl
@[simp] theorem advance_tick (len n : Nat) : (advance len n s).tick = s.tick := rfl
@[simp] theorem advance_events (len n : Nat) : (advance len n s).events = s.events := rfl

end

end Sys2Proof.Machine
end

