-- ==== Sys2Proof/Laws/Flags.lean ====
section
/-!
SUPPORT. P and its flags: reading a flag after a write of one, of all, or of a whole byte; bit 5.
-/

namespace Sys2Proof.Machine

theorem getLsbD_one_shiftLeft (k j : Nat) (hk : k < 8) : (1#8 <<< k).getLsbD j = decide (j = k) := by
  rw [BitVec.getLsbD_shiftLeft, BitVec.getLsbD_one]
  by_cases h : j = k
  · subst h; simp [hk]
  · have : ¬ (j - k = 0 ∧ ¬ j < k) := by omega
    simp [h]
    omega

theorem getLsbD_setFlag (p : Byte) (f : Flag) (b : Bool) (j : Nat) (hj : j < 8) :
    (setFlag p f b).getLsbD j = if j = f.bit then b else p.getLsbD j := by
  have hk : f.bit < 8 := by cases f <;> decide
  unfold setFlag
  by_cases h : j = f.bit
  · cases b <;> simp [getLsbD_one_shiftLeft _ _ hk, h]
  · cases b <;> simp [h, hj] <;> omega

/-- Reading a flag after writing one. -/
theorem flag_setFlag (p : Byte) (f g : Flag) (b : Bool) :
    flag (setFlag p f b) g = if g = f then b else flag p g := by
  have hg : g.bit < 8 := by cases g <;> decide
  have inj : g.bit = f.bit ↔ g = f := by cases f <;> cases g <;> decide
  simp only [flag, getLsbD_setFlag p f b g.bit hg, inj]

/-- No write of a flag touches bit 5. -/
theorem flagX_setFlag (p : Byte) (f : Flag) (b : Bool) : flagX (setFlag p f b) = flagX p := by
  have : (5 : Nat) ≠ f.bit := by cases f <;> decide
  rw [flagX, getLsbD_setFlag p f b 5 (by decide), if_neg this, flagX]

theorem flag_setFlag? (p : Byte) (f g : Flag) (b : Option Bool) :
    flag (setFlag? p f b) g = if g = f then b.getD (flag p g) else flag p g := by
  cases b with
  | none => simp [setFlag?]
  | some b => simp [setFlag?, flag_setFlag]

theorem flagX_setFlag? (p : Byte) (f : Flag) (b : Option Bool) :
    flagX (setFlag? p f b) = flagX p := by
  cases b with
  | none => rfl
  | some b => exact flagX_setFlag p f b

/-- A write-back writes each flag that is defined and keeps every other (40_alu.md R152). -/
theorem flag_applyFlags (p : Byte) (o : FlagOut) (g : Flag) :
    flag (applyFlags p o) g =
      match g with
      | .n => o.n.getD (flag p .n)
      | .z => o.z.getD (flag p .z)
      | .c => o.c.getD (flag p .c)
      | .v => o.v.getD (flag p .v)
      | .b => flag p .b
      | .d => flag p .d
      | .i => flag p .i := by
  cases g <;> simp [applyFlags, flag_setFlag?]

/-- A write-back does not touch bit 5. -/
theorem flagX_applyFlags (p : Byte) (o : FlagOut) : flagX (applyFlags p o) = flagX p := by
  simp only [applyFlags, flagX_setFlag?]

/-- A byte with bit 5 forced keeps every flag. -/
theorem flag_or_20 (v : Byte) (g : Flag) : flag (v ||| 0x20) g = flag v g := by
  cases g <;> simp [flag, Flag.bit]

/-- A byte with bit 5 forced has it. -/
theorem flagX_or_20 (v : Byte) : flagX (v ||| 0x20) = true := by simp [flagX]

/-- Two status bytes with the same flags and the same bit 5 are the same byte. -/
theorem eq_of_flags {p q : Byte} (h : ∀ g, flag p g = flag q g) (h5 : flagX p = flagX q) :
    p = q := by
  apply BitVec.eq_of_getLsbD_eq
  intro j hj
  have hn := h .n; have hv := h .v; have hb := h .b; have hd := h .d
  have hi := h .i; have hz := h .z; have hc := h .c
  simp only [flag, Flag.bit] at hn hv hb hd hi hz hc
  rw [flagX, flagX] at h5
  interval_cases j <;> assumption

@[simp] theorem State.flag_setFlag (s : State) (f g : Flag) (b : Bool) :
    (s.setFlag f b).flag g = if g = f then b else s.flag g :=
  Machine.flag_setFlag s.p f g b

@[simp] theorem State.flag_writeP (s : State) (v : Byte) (g : Flag) :
    (s.writeP v).flag g = Machine.flag v g :=
  flag_or_20 v g

/-- A state's flag depends on P alone. -/
theorem State.flag_congr {s t : State} (h : t.p = s.p) (g : Flag) : t.flag g = s.flag g := by
  simp [State.flag, h]

end Sys2Proof.Machine
end

