-- ==== Sys2Proof/Laws/Memory.lean ====
section
/-!
SUPPORT. Memory: read after write, and every operation keeps the canonical form.
-/

namespace Sys2Proof.Machine

@[simp] theorem memGet_nil (a : Nat) : memGet [] a = fillByte := rfl

theorem memGet_filter_ne (m : Mem) {a b : Nat} (h : b ≠ a) :
    memGet (m.filter fun c => c.1 != a) b = memGet m b := by
  induction m with
  | nil => rfl
  | cons c m ih =>
    by_cases hc : c.1 = a
    · simp only [hc, bne_self_eq_false, Bool.false_eq_true, not_false_eq_true,
        List.filter_cons_of_neg, memGet]
      rw [if_neg (fun e => h e.symm), ih]
    · have : (c.1 != a) = true := by simpa using hc
      simp only [this, List.filter_cons_of_pos, memGet, ih]

theorem memGet_of_notMem (m : Mem) {a : Nat} (h : ∀ c ∈ m, c.1 ≠ a) : memGet m a = fillByte := by
  induction m with
  | nil => rfl
  | cons c m ih =>
    rw [memGet, if_neg (h c (by simp)), ih fun d hd => h d (by simp [hd])]

theorem memGet_insert (m : Mem) {a : Nat} (v : Byte) (b : Nat) (h : ∀ c ∈ m, c.1 ≠ a) :
    memGet (memInsert (a, v) m) b = if a = b then v else memGet m b := by
  induction m with
  | nil => simp [memInsert, memGet]
  | cons c m ih =>
    have hc : c.1 ≠ a := h c (by simp)
    have ih := ih fun d hd => h d (by simp [hd])
    by_cases hlt : a < c.1
    · simp [memInsert, hlt, memGet]
    · simp only [memInsert, hlt, if_false, memGet, ih]
      by_cases hb : c.1 = b
      · have : a ≠ b := fun e => hc (hb.trans e.symm)
        simp [hb, this]
      · simp [hb]

/-- Reading after a write. -/
theorem memGet_memSet (m : Mem) (a : Nat) (v : Byte) (b : Nat) :
    memGet (memSet m a v) b = if a = b then v else memGet m b := by
  have hne : ∀ c ∈ m.filter (fun c => c.1 != a), c.1 ≠ a := by
    intro c hc
    simpa using (List.mem_filter.mp hc).2
  unfold memSet
  by_cases hv : v = fillByte
  · simp only [hv, if_true]
    by_cases hb : a = b
    · subst hb
      simp [memGet_of_notMem _ hne]
    · simp [hb, memGet_filter_ne m (fun e => hb e.symm)]
  · simp only [hv, if_false]
    rw [memGet_insert _ _ _ hne]
    by_cases hb : a = b
    · simp [hb]
    · simp [hb, memGet_filter_ne m (fun e => hb e.symm)]

@[simp] theorem memGet_memSet_same (m : Mem) (a : Nat) (v : Byte) : memGet (memSet m a v) a = v := by
  simp [memGet_memSet]

theorem memGet_memSet_ne (m : Mem) {a b : Nat} (v : Byte) (h : a ≠ b) :
    memGet (memSet m a v) b = memGet m b := by
  simp [memGet_memSet, h]

theorem mem_memInsert {c d : Host.Cell} {m : Mem} : d ∈ memInsert c m ↔ d = c ∨ d ∈ m := by
  induction m with
  | nil => simp [memInsert]
  | cons e m ih =>
    by_cases h : c.1 < e.1
    · simp [memInsert, h]
    · simp only [memInsert, h, if_false, List.mem_cons, ih]
      tauto

/-- An entry of memory after a store is an old entry or the stored byte. -/
theorem mem_memSet {c : Host.Cell} {m : Mem} {a : Nat} {v : Byte} (h : c ∈ memSet m a v) :
    c ∈ m ∨ c = (a, v) := by
  unfold memSet at h
  by_cases hv : v = fillByte
  · simp only [hv, if_true] at h
    exact .inl (List.mem_filter.mp h).1
  · simp only [hv, if_false, mem_memInsert] at h
    exact h.elim .inr fun h => .inl (List.mem_filter.mp h).1

theorem pairwise_memInsert (c : Host.Cell) (m : Mem) (hm : m.Pairwise fun c d => c.1 < d.1)
    (hc : ∀ d ∈ m, d.1 ≠ c.1) : (memInsert c m).Pairwise fun c d => c.1 < d.1 := by
  induction m with
  | nil => simp [memInsert]
  | cons e m ih =>
    rw [List.pairwise_cons] at hm
    by_cases h : c.1 < e.1
    · simp only [memInsert, h, if_true, List.pairwise_cons]
      refine ⟨fun d hd => ?_, hm.1, hm.2⟩
      rcases List.mem_cons.mp hd with rfl | hd
      · exact h
      · exact h.trans (hm.1 d hd)
    · simp only [memInsert, h, if_false, List.pairwise_cons]
      refine ⟨fun d hd => ?_, ih hm.2 fun d hd => hc d (by simp [hd])⟩
      rcases mem_memInsert.mp hd with rfl | hd
      · exact lt_of_le_of_ne (not_lt.mp h) (hc e (by simp))
      · exact hm.1 d hd

/-- A store keeps the canonical form. -/
theorem memSet_wf {m : Mem} (hm : Mem.wf m) {a : Nat} (ha : a < 65536) (v : Byte) :
    Mem.wf (memSet m a v) := by
  have hf := hm.1.filter (p := fun c => c.1 != a)
  refine ⟨?_, ?_⟩
  · unfold memSet
    by_cases hv : v = fillByte
    · simpa only [hv, if_true] using hf
    · simp only [hv, if_false]
      refine pairwise_memInsert _ _ hf fun d hd => ?_
      simpa using (List.mem_filter.mp hd).2
  · intro c hc
    unfold memSet at hc
    by_cases hv : v = fillByte
    · simp only [hv, if_true] at hc
      exact hm.2 c (List.mem_filter.mp hc).1
    · simp only [hv, if_false, mem_memInsert] at hc
      rcases hc with rfl | hc
      · exact ⟨hv, ha⟩
      · exact hm.2 c (List.mem_filter.mp hc).1

/-- Erasing a span keeps the canonical form. -/
theorem memErase_wf {m : Mem} (hm : Mem.wf m) (lo hi : Nat) : Mem.wf (memErase m lo hi) :=
  ⟨hm.1.filter _, fun c hc => hm.2 c (List.mem_filter.mp hc).1⟩

/-- Storing bytes at consecutive addresses inside the 64 KB space keeps the canonical form. -/
theorem memSetList_wf {m : Mem} (hm : Mem.wf m) (vs : List Byte) :
    ∀ a, a + vs.length ≤ 65536 → Mem.wf (memSetList m a vs) := by
  induction vs generalizing m with
  | nil => exact fun _ _ => hm
  | cons v vs ih =>
    intro a h
    simp only [List.length_cons] at h
    exact ih (memSet_wf hm (by omega) v) (a + 1) (by omega)

theorem nil_wf : Mem.wf [] := by simp [Mem.wf]

/-- Storing what an unlisted address reads as into an empty memory leaves it empty. -/
theorem memSetList_fill (n a : Nat) : memSetList [] a (List.replicate n fillByte) = [] := by
  induction n generalizing a with
  | zero => rfl
  | succ n ih => exact ih (a + 1)

end Sys2Proof.Machine
end

