-- ==== Sys2Proof/Laws/Ops.lean ====
section
/-!
SUPPORT. What the accesses of Machine/Ops.lean leave in every field: a gap and a read change only the ACIA, the events and
the tick; a write also memory; pushes and pulls also S.
-/

namespace Sys2Proof.Machine

section
variable (s : State) (w : Accessor) (a : Addr) (v z : Byte)

@[simp] theorem gap_a : (gap s).a = s.a := rfl
@[simp] theorem gap_x : (gap s).x = s.x := rfl
@[simp] theorem gap_y : (gap s).y = s.y := rfl
@[simp] theorem gap_sp : (gap s).sp = s.sp := rfl
@[simp] theorem gap_p : (gap s).p = s.p := rfl
@[simp] theorem gap_pc : (gap s).pc = s.pc := rfl
@[simp] theorem gap_resetLatch : (gap s).resetLatch = s.resetLatch := rfl
@[simp] theorem gap_nmiLatch : (gap s).nmiLatch = s.nmiLatch := rfl
@[simp] theorem gap_irqLatch : (gap s).irqLatch = s.irqLatch := rfl
@[simp] theorem gap_halted : (gap s).halted = s.halted := rfl
@[simp] theorem gap_stopRequested : (gap s).stopRequested = s.stopRequested := rfl
@[simp] theorem gap_cycles : (gap s).cycles = s.cycles := rfl
@[simp] theorem gap_mem : (gap s).mem = s.mem := rfl
@[simp] theorem gap_tape : (gap s).tape = s.tape := rfl
@[simp] theorem gap_clockMHz : (gap s).clockMHz = s.clockMHz := rfl
@[simp] theorem gap_traceOn : (gap s).traceOn = s.traceOn := rfl
@[simp] theorem gap_cfg : (gap s).cfg = s.cfg := rfl
@[simp] theorem gap_tick : (gap s).tick = s.tick + 1 := rfl

@[simp] theorem readEffect_a : (readEffect w a s).a = s.a := rfl
@[simp] theorem readEffect_x : (readEffect w a s).x = s.x := rfl
@[simp] theorem readEffect_y : (readEffect w a s).y = s.y := rfl
@[simp] theorem readEffect_sp : (readEffect w a s).sp = s.sp := rfl
@[simp] theorem readEffect_p : (readEffect w a s).p = s.p := rfl
@[simp] theorem readEffect_pc : (readEffect w a s).pc = s.pc := rfl
@[simp] theorem readEffect_resetLatch : (readEffect w a s).resetLatch = s.resetLatch := rfl
@[simp] theorem readEffect_nmiLatch : (readEffect w a s).nmiLatch = s.nmiLatch := rfl
@[simp] theorem readEffect_irqLatch : (readEffect w a s).irqLatch = s.irqLatch := rfl
@[simp] theorem readEffect_halted : (readEffect w a s).halted = s.halted := rfl
@[simp] theorem readEffect_stopRequested : (readEffect w a s).stopRequested = s.stopRequested := rfl
@[simp] theorem readEffect_cycles : (readEffect w a s).cycles = s.cycles := rfl
@[simp] theorem readEffect_mem : (readEffect w a s).mem = s.mem := rfl
@[simp] theorem readEffect_tape : (readEffect w a s).tape = s.tape := rfl
@[simp] theorem readEffect_clockMHz : (readEffect w a s).clockMHz = s.clockMHz := rfl
@[simp] theorem readEffect_traceOn : (readEffect w a s).traceOn = s.traceOn := rfl
@[simp] theorem readEffect_cfg : (readEffect w a s).cfg = s.cfg := rfl
@[simp] theorem readEffect_tick : (readEffect w a s).tick = s.tick := rfl

@[simp] theorem memRead_a : ((memRead w a s).2).a = s.a := rfl
@[simp] theorem memRead_x : ((memRead w a s).2).x = s.x := rfl
@[simp] theorem memRead_y : ((memRead w a s).2).y = s.y := rfl
@[simp] theorem memRead_sp : ((memRead w a s).2).sp = s.sp := rfl
@[simp] theorem memRead_p : ((memRead w a s).2).p = s.p := rfl
@[simp] theorem memRead_pc : ((memRead w a s).2).pc = s.pc := rfl
@[simp] theorem memRead_resetLatch : ((memRead w a s).2).resetLatch = s.resetLatch := rfl
@[simp] theorem memRead_nmiLatch : ((memRead w a s).2).nmiLatch = s.nmiLatch := rfl
@[simp] theorem memRead_irqLatch : ((memRead w a s).2).irqLatch = s.irqLatch := rfl
@[simp] theorem memRead_halted : ((memRead w a s).2).halted = s.halted := rfl
@[simp] theorem memRead_stopRequested : ((memRead w a s).2).stopRequested = s.stopRequested := rfl
@[simp] theorem memRead_cycles : ((memRead w a s).2).cycles = s.cycles := rfl
@[simp] theorem memRead_mem : ((memRead w a s).2).mem = s.mem := rfl
@[simp] theorem memRead_tape : ((memRead w a s).2).tape = s.tape := rfl
@[simp] theorem memRead_clockMHz : ((memRead w a s).2).clockMHz = s.clockMHz := rfl
@[simp] theorem memRead_traceOn : ((memRead w a s).2).traceOn = s.traceOn := rfl
@[simp] theorem memRead_cfg : ((memRead w a s).2).cfg = s.cfg := rfl
@[simp] theorem memRead_tick : ((memRead w a s).2).tick = s.tick + 1 := rfl

@[simp] theorem memWrite_a : (memWrite a v s).a = s.a := rfl
@[simp] theorem memWrite_x : (memWrite a v s).x = s.x := rfl
@[simp] theorem memWrite_y : (memWrite a v s).y = s.y := rfl
@[simp] theorem memWrite_sp : (memWrite a v s).sp = s.sp := rfl
@[simp] theorem memWrite_p : (memWrite a v s).p = s.p := rfl
@[simp] theorem memWrite_pc : (memWrite a v s).pc = s.pc := rfl
@[simp] theorem memWrite_resetLatch : (memWrite a v s).resetLatch = s.resetLatch := rfl
@[simp] theorem memWrite_nmiLatch : (memWrite a v s).nmiLatch = s.nmiLatch := rfl
@[simp] theorem memWrite_irqLatch : (memWrite a v s).irqLatch = s.irqLatch := rfl
@[simp] theorem memWrite_halted : (memWrite a v s).halted = s.halted := rfl
@[simp] theorem memWrite_stopRequested : (memWrite a v s).stopRequested = s.stopRequested := rfl
@[simp] theorem memWrite_cycles : (memWrite a v s).cycles = s.cycles := rfl
@[simp] theorem memWrite_tape : (memWrite a v s).tape = s.tape := rfl
@[simp] theorem memWrite_clockMHz : (memWrite a v s).clockMHz = s.clockMHz := rfl
@[simp] theorem memWrite_traceOn : (memWrite a v s).traceOn = s.traceOn := rfl
@[simp] theorem memWrite_cfg : (memWrite a v s).cfg = s.cfg := rfl
@[simp] theorem memWrite_tick : (memWrite a v s).tick = s.tick + 1 := rfl

@[simp] theorem memRead2_a : ((memRead2 w a s).2).a = s.a := rfl
@[simp] theorem memRead2_x : ((memRead2 w a s).2).x = s.x := rfl
@[simp] theorem memRead2_y : ((memRead2 w a s).2).y = s.y := rfl
@[simp] theorem memRead2_sp : ((memRead2 w a s).2).sp = s.sp := rfl
@[simp] theorem memRead2_p : ((memRead2 w a s).2).p = s.p := rfl
@[simp] theorem memRead2_pc : ((memRead2 w a s).2).pc = s.pc := rfl
@[simp] theorem memRead2_resetLatch : ((memRead2 w a s).2).resetLatch = s.resetLatch := rfl
@[simp] theorem memRead2_nmiLatch : ((memRead2 w a s).2).nmiLatch = s.nmiLatch := rfl
@[simp] theorem memRead2_irqLatch : ((memRead2 w a s).2).irqLatch = s.irqLatch := rfl
@[simp] theorem memRead2_halted : ((memRead2 w a s).2).halted = s.halted := rfl
@[simp] theorem memRead2_stopRequested : ((memRead2 w a s).2).stopRequested = s.stopRequested := rfl
@[simp] theorem memRead2_cycles : ((memRead2 w a s).2).cycles = s.cycles := rfl
@[simp] theorem memRead2_mem : ((memRead2 w a s).2).mem = s.mem := rfl
@[simp] theorem memRead2_tape : ((memRead2 w a s).2).tape = s.tape := rfl
@[simp] theorem memRead2_clockMHz : ((memRead2 w a s).2).clockMHz = s.clockMHz := rfl
@[simp] theorem memRead2_traceOn : ((memRead2 w a s).2).traceOn = s.traceOn := rfl
@[simp] theorem memRead2_cfg : ((memRead2 w a s).2).cfg = s.cfg := rfl
@[simp] theorem memRead2_tick : ((memRead2 w a s).2).tick = s.tick + 2 := rfl

@[simp] theorem readWordZP_a : ((readWordZP z s).2).a = s.a := rfl
@[simp] theorem readWordZP_x : ((readWordZP z s).2).x = s.x := rfl
@[simp] theorem readWordZP_y : ((readWordZP z s).2).y = s.y := rfl
@[simp] theorem readWordZP_sp : ((readWordZP z s).2).sp = s.sp := rfl
@[simp] theorem readWordZP_p : ((readWordZP z s).2).p = s.p := rfl
@[simp] theorem readWordZP_pc : ((readWordZP z s).2).pc = s.pc := rfl
@[simp] theorem readWordZP_resetLatch : ((readWordZP z s).2).resetLatch = s.resetLatch := rfl
@[simp] theorem readWordZP_nmiLatch : ((readWordZP z s).2).nmiLatch = s.nmiLatch := rfl
@[simp] theorem readWordZP_irqLatch : ((readWordZP z s).2).irqLatch = s.irqLatch := rfl
@[simp] theorem readWordZP_halted : ((readWordZP z s).2).halted = s.halted := rfl
@[simp] theorem readWordZP_stopRequested : ((readWordZP z s).2).stopRequested = s.stopRequested := rfl
@[simp] theorem readWordZP_cycles : ((readWordZP z s).2).cycles = s.cycles := rfl
@[simp] theorem readWordZP_mem : ((readWordZP z s).2).mem = s.mem := rfl
@[simp] theorem readWordZP_tape : ((readWordZP z s).2).tape = s.tape := rfl
@[simp] theorem readWordZP_clockMHz : ((readWordZP z s).2).clockMHz = s.clockMHz := rfl
@[simp] theorem readWordZP_traceOn : ((readWordZP z s).2).traceOn = s.traceOn := rfl
@[simp] theorem readWordZP_cfg : ((readWordZP z s).2).cfg = s.cfg := rfl
@[simp] theorem readWordZP_tick : ((readWordZP z s).2).tick = s.tick + 2 := rfl

@[simp] theorem push_a : (push v s).a = s.a := rfl
@[simp] theorem push_x : (push v s).x = s.x := rfl
@[simp] theorem push_y : (push v s).y = s.y := rfl
@[simp] theorem push_sp : (push v s).sp = s.sp - 1 := rfl
@[simp] theorem push_p : (push v s).p = s.p := rfl
@[simp] theorem push_pc : (push v s).pc = s.pc := rfl
@[simp] theorem push_resetLatch : (push v s).resetLatch = s.resetLatch := rfl
@[simp] theorem push_nmiLatch : (push v s).nmiLatch = s.nmiLatch := rfl
@[simp] theorem push_irqLatch : (push v s).irqLatch = s.irqLatch := rfl
@[simp] theorem push_halted : (push v s).halted = s.halted := rfl
@[simp] theorem push_stopRequested : (push v s).stopRequested = s.stopRequested := rfl
@[simp] theorem push_cycles : (push v s).cycles = s.cycles := rfl
@[simp] theorem push_tape : (push v s).tape = s.tape := rfl
@[simp] theorem push_clockMHz : (push v s).clockMHz = s.clockMHz := rfl
@[simp] theorem push_traceOn : (push v s).traceOn = s.traceOn := rfl
@[simp] theorem push_cfg : (push v s).cfg = s.cfg := rfl
@[simp] theorem push_tick : (push v s).tick = s.tick + 1 := rfl

@[simp] theorem pull_a : ((pull s).2).a = s.a := rfl
@[simp] theorem pull_x : ((pull s).2).x = s.x := rfl
@[simp] theorem pull_y : ((pull s).2).y = s.y := rfl
@[simp] theorem pull_sp : ((pull s).2).sp = s.sp + 1 := rfl
@[simp] theorem pull_p : ((pull s).2).p = s.p := rfl
@[simp] theorem pull_pc : ((pull s).2).pc = s.pc := rfl
@[simp] theorem pull_resetLatch : ((pull s).2).resetLatch = s.resetLatch := rfl
@[simp] theorem pull_nmiLatch : ((pull s).2).nmiLatch = s.nmiLatch := rfl
@[simp] theorem pull_irqLatch : ((pull s).2).irqLatch = s.irqLatch := rfl
@[simp] theorem pull_halted : ((pull s).2).halted = s.halted := rfl
@[simp] theorem pull_stopRequested : ((pull s).2).stopRequested = s.stopRequested := rfl
@[simp] theorem pull_cycles : ((pull s).2).cycles = s.cycles := rfl
@[simp] theorem pull_mem : ((pull s).2).mem = s.mem := rfl
@[simp] theorem pull_tape : ((pull s).2).tape = s.tape := rfl
@[simp] theorem pull_clockMHz : ((pull s).2).clockMHz = s.clockMHz := rfl
@[simp] theorem pull_traceOn : ((pull s).2).traceOn = s.traceOn := rfl
@[simp] theorem pull_cfg : ((pull s).2).cfg = s.cfg := rfl
@[simp] theorem pull_tick : ((pull s).2).tick = s.tick + 1 := rfl

end

-- Where an address is mapped depends on the configuration alone.

theorem kindAt_congr {s t : State} (h : t.cfg = s.cfg) (a : Addr) : t.kindAt a = s.kindAt a := by
  simp only [State.kindAt, State.owner, h]

theorem offsetAt_congr {s t : State} (h : t.cfg = s.cfg) (a : Addr) :
    t.offsetAt a = s.offsetAt a := by
  simp only [State.offsetAt, State.owner, h]

theorem plainAt_congr {s t : State} (h : t.cfg = s.cfg) (a : Addr) : t.plainAt a = s.plainAt a := by
  simp only [State.plainAt, kindAt_congr h]

theorem isStorage_congr {s t : State} (h : t.cfg = s.cfg) (a : Addr) :
    t.isStorage a = s.isStorage a := by
  simp only [State.isStorage, kindAt_congr h]

-- A read of a plain address.

/-- A plain address reads the same in states with the same configuration and memory. -/
theorem traceRead_plain_congr {s t : State} (hc : t.cfg = s.cfg) (hm : t.mem = s.mem) {a : Addr}
    (hp : s.plainAt a = true) : t.traceRead a = s.traceRead a := by
  have hk := kindAt_congr hc a
  unfold State.plainAt at hp
  unfold State.traceRead
  rw [hk]
  split at hp <;> simp_all

/-- A read of a plain address has no effect but the gap before it (20_memory.md R71). -/
theorem readEffect_plain {s : State} {a : Addr} (hp : s.plainAt a = true) (w : Accessor) :
    readEffect w a s = s := by
  unfold State.plainAt at hp
  unfold readEffect aciaAfterRead eventsAfterRead
  split at hp <;> simp_all

/-- A read of the RESET service has no effect on the ACIA but the gap before it (47_acia.md R382). -/
@[simp] theorem memRead_reset_acia (a : Addr) (s : State) : (memRead .reset a s).2.acia = (gap s).acia := by
  change aciaAfterRead .reset a (gap s) = _
  unfold aciaAfterRead
  split <;> simp [sparesAcia, Acia.afterRead]

/-- Worker steps after worker steps. -/
theorem workerRun_append (ms ns : List WorkerMove) (w : Acia × List Event) :
    workerRun (ms ++ ns) w = workerRun ns (workerRun ms w) := by
  induction ms generalizing w with
  | nil => rfl
  | cons m ms ih => exact ih _

/-- What the worker does to the ACIA does not depend on the events before. -/
theorem workerRun_acia_congr (ms : List WorkerMove) (d : Acia) (es fs : List Event) :
    (workerRun ms (d, es)).1 = (workerRun ms (d, fs)).1 := by
  induction ms generalizing d es fs with
  | nil => rfl
  | cons m ms ih =>
    simp only [workerRun, workerStep]
    split <;> exact ih _ _ _

/-- What a read access answers: the byte TraceRead gives after the gap (R65). -/
theorem memRead_value (w : Accessor) (a : Addr) (s : State) :
    (memRead w a s).1 = (gap s).traceRead a := rfl

/-- A read of a plain address: the byte that stands there, and nothing but a gap. -/
theorem memRead_plain {s : State} {a : Addr} (hp : s.plainAt a = true) (w : Accessor) :
    memRead w a s = (s.traceRead a, gap s) := by
  have hg : (gap s).plainAt a = true := (plainAt_congr (gap_cfg s) a).trans hp
  unfold memRead
  rw [readEffect_plain hg, traceRead_plain_congr (gap_cfg s) (gap_mem s) hp]

/-- RAM reads the stored byte. -/
theorem traceRead_ram {s : State} {a : Addr} (h : s.kindAt a = some .ram) :
    s.traceRead a = s.memByte a := by
  simp [State.traceRead, h, State.memByte]

/-- RAM is plain. -/
theorem plainAt_ram {s : State} {a : Addr} (h : s.kindAt a = some .ram) : s.plainAt a = true := by
  simp [State.plainAt, h]

theorem toNat_ne {a b : Addr} (h : b ≠ a) : a.toNat ≠ b.toNat :=
  fun e => h (BitVec.eq_of_toNat_eq e.symm)

-- A write.

/-- A byte of memory after a write: only the written byte of RAM changes (20_memory.md R66). -/
theorem memByte_memWrite (a : Addr) (v : Byte) (s : State) (b : Addr) :
    (memWrite a v s).memByte b =
      if b = a ∧ s.kindAt a = some .ram then v else s.memByte b := by
  have hk : (gap s).kindAt a = s.kindAt a := kindAt_congr (gap_cfg s) a
  show memGet (memAfterWrite a v (gap s)) b.toNat = _
  unfold memAfterWrite
  rw [hk]
  rcases h : s.kindAt a with _ | k
  · simp [State.memByte]
  · cases k <;> simp [State.memByte, memGet_memSet]
    by_cases hb : b = a
    · simp [hb]
    · simp [hb, toNat_ne hb]

/-- The stack addresses of two offsets differ when the offsets do. -/
theorem stackAddr_inj {p q : Byte} (h : stackAddr p = stackAddr q) : p = q := by
  simp only [stackAddr, zext] at h
  bv_omega

/-- Every stack address is in block 1 (20_memory.md R74). -/
theorem highByte_stackAddr (p : Byte) : highByte (stackAddr p) = 1 := by
  apply BitVec.eq_of_toNat_eq
  simp only [highByte, stackAddr, zext, BitVec.extractLsb'_toNat, BitVec.toNat_add,
    BitVec.toNat_setWidth]
  have := p.isLt
  simp [Nat.shiftRight_eq_div_pow]
  omega

/-- The whole stack page is one block, so it is all of one kind. -/
theorem kindAt_stackAddr (s : State) (p q : Byte) :
    s.kindAt (stackAddr p) = s.kindAt (stackAddr q) := by
  simp only [State.kindAt, State.owner, highByte_stackAddr]

end Sys2Proof.Machine
end

