-- ==== Sys2Proof/Laws/Operands.lean ====
section
/-!
SUPPORT. What resolving, loading, storing, modifying and saving a context leave in every field, and what each of them
does.
-/

namespace Sys2Proof.Machine

section
variable (s : State) (m : Ea) (o : Src) (v : Byte) (ret : Addr) (brk : Option Bool)

@[simp] theorem resolve_a : ((resolve m s).2).a = s.a := by cases m <;> rfl
@[simp] theorem resolve_x : ((resolve m s).2).x = s.x := by cases m <;> rfl
@[simp] theorem resolve_y : ((resolve m s).2).y = s.y := by cases m <;> rfl
@[simp] theorem resolve_sp : ((resolve m s).2).sp = s.sp := by cases m <;> rfl
@[simp] theorem resolve_p : ((resolve m s).2).p = s.p := by cases m <;> rfl
@[simp] theorem resolve_pc : ((resolve m s).2).pc = s.pc := by cases m <;> rfl
@[simp] theorem resolve_resetLatch : ((resolve m s).2).resetLatch = s.resetLatch := by cases m <;> rfl
@[simp] theorem resolve_nmiLatch : ((resolve m s).2).nmiLatch = s.nmiLatch := by cases m <;> rfl
@[simp] theorem resolve_irqLatch : ((resolve m s).2).irqLatch = s.irqLatch := by cases m <;> rfl
@[simp] theorem resolve_halted : ((resolve m s).2).halted = s.halted := by cases m <;> rfl
@[simp] theorem resolve_stopRequested : ((resolve m s).2).stopRequested = s.stopRequested := by cases m <;> rfl
@[simp] theorem resolve_cycles : ((resolve m s).2).cycles = s.cycles := by cases m <;> rfl
@[simp] theorem resolve_mem : ((resolve m s).2).mem = s.mem := by cases m <;> rfl
@[simp] theorem resolve_tape : ((resolve m s).2).tape = s.tape := by cases m <;> rfl
@[simp] theorem resolve_clockMHz : ((resolve m s).2).clockMHz = s.clockMHz := by cases m <;> rfl
@[simp] theorem resolve_traceOn : ((resolve m s).2).traceOn = s.traceOn := by cases m <;> rfl
@[simp] theorem resolve_cfg : ((resolve m s).2).cfg = s.cfg := by cases m <;> rfl

@[simp] theorem load_a : ((load o s).2).a = s.a := by cases o <;> simp [load]
@[simp] theorem load_x : ((load o s).2).x = s.x := by cases o <;> simp [load]
@[simp] theorem load_y : ((load o s).2).y = s.y := by cases o <;> simp [load]
@[simp] theorem load_sp : ((load o s).2).sp = s.sp := by cases o <;> simp [load]
@[simp] theorem load_p : ((load o s).2).p = s.p := by cases o <;> simp [load]
@[simp] theorem load_pc : ((load o s).2).pc = s.pc := by cases o <;> simp [load]
@[simp] theorem load_resetLatch : ((load o s).2).resetLatch = s.resetLatch := by cases o <;> simp [load]
@[simp] theorem load_nmiLatch : ((load o s).2).nmiLatch = s.nmiLatch := by cases o <;> simp [load]
@[simp] theorem load_irqLatch : ((load o s).2).irqLatch = s.irqLatch := by cases o <;> simp [load]
@[simp] theorem load_halted : ((load o s).2).halted = s.halted := by cases o <;> simp [load]
@[simp] theorem load_stopRequested : ((load o s).2).stopRequested = s.stopRequested := by cases o <;> simp [load]
@[simp] theorem load_cycles : ((load o s).2).cycles = s.cycles := by cases o <;> simp [load]
@[simp] theorem load_mem : ((load o s).2).mem = s.mem := by cases o <;> simp [load]
@[simp] theorem load_tape : ((load o s).2).tape = s.tape := by cases o <;> simp [load]
@[simp] theorem load_clockMHz : ((load o s).2).clockMHz = s.clockMHz := by cases o <;> simp [load]
@[simp] theorem load_traceOn : ((load o s).2).traceOn = s.traceOn := by cases o <;> simp [load]
@[simp] theorem load_cfg : ((load o s).2).cfg = s.cfg := by cases o <;> simp [load]

@[simp] theorem store_a : (store m v s).a = s.a := by simp [store]
@[simp] theorem store_x : (store m v s).x = s.x := by simp [store]
@[simp] theorem store_y : (store m v s).y = s.y := by simp [store]
@[simp] theorem store_sp : (store m v s).sp = s.sp := by simp [store]
@[simp] theorem store_p : (store m v s).p = s.p := by simp [store]
@[simp] theorem store_pc : (store m v s).pc = s.pc := by simp [store]
@[simp] theorem store_resetLatch : (store m v s).resetLatch = s.resetLatch := by simp [store]
@[simp] theorem store_nmiLatch : (store m v s).nmiLatch = s.nmiLatch := by simp [store]
@[simp] theorem store_irqLatch : (store m v s).irqLatch = s.irqLatch := by simp [store]
@[simp] theorem store_halted : (store m v s).halted = s.halted := by simp [store]
@[simp] theorem store_stopRequested : (store m v s).stopRequested = s.stopRequested := by simp [store]
@[simp] theorem store_cycles : (store m v s).cycles = s.cycles := by simp [store]
@[simp] theorem store_tape : (store m v s).tape = s.tape := by simp [store]
@[simp] theorem store_clockMHz : (store m v s).clockMHz = s.clockMHz := by simp [store]
@[simp] theorem store_traceOn : (store m v s).traceOn = s.traceOn := by simp [store]
@[simp] theorem store_cfg : (store m v s).cfg = s.cfg := by simp [store]

@[simp] theorem saveContext_a : (saveContext ret brk s).a = s.a := by simp [saveContext]
@[simp] theorem saveContext_x : (saveContext ret brk s).x = s.x := by simp [saveContext]
@[simp] theorem saveContext_y : (saveContext ret brk s).y = s.y := by simp [saveContext]
@[simp] theorem saveContext_sp : (saveContext ret brk s).sp = s.sp - 1 - 1 - 1 := by simp [saveContext]
@[simp] theorem saveContext_pc : (saveContext ret brk s).pc = s.pc := by simp [saveContext]
@[simp] theorem saveContext_resetLatch : (saveContext ret brk s).resetLatch = s.resetLatch := by simp [saveContext]
@[simp] theorem saveContext_nmiLatch : (saveContext ret brk s).nmiLatch = s.nmiLatch := by simp [saveContext]
@[simp] theorem saveContext_irqLatch : (saveContext ret brk s).irqLatch = s.irqLatch := by simp [saveContext]
@[simp] theorem saveContext_halted : (saveContext ret brk s).halted = s.halted := by simp [saveContext]
@[simp] theorem saveContext_stopRequested : (saveContext ret brk s).stopRequested = s.stopRequested := by simp [saveContext]
@[simp] theorem saveContext_cycles : (saveContext ret brk s).cycles = s.cycles := by simp [saveContext]
@[simp] theorem saveContext_tape : (saveContext ret brk s).tape = s.tape := by simp [saveContext]
@[simp] theorem saveContext_clockMHz : (saveContext ret brk s).clockMHz = s.clockMHz := by simp [saveContext]
@[simp] theorem saveContext_traceOn : (saveContext ret brk s).traceOn = s.traceOn := by simp [saveContext]
@[simp] theorem saveContext_cfg : (saveContext ret brk s).cfg = s.cfg := by simp [saveContext]
@[simp] theorem saveContext_tick : (saveContext ret brk s).tick = s.tick + 3 := by simp [saveContext]

end

/-- P after a saved context: B as asked, I set, the rest as before (R458, R459, R303). -/
@[simp] theorem saveContext_p (ret : Addr) (brk : Option Bool) (s : State) :
    (saveContext ret brk s).p = setFlag (setFlag? s.p .b brk) .i true := by
  simp [saveContext, State.setFlag]

/-- The address a store goes to is computed before the store. -/
theorem store_eq (m : Ea) (v : Byte) (s : State) :
    store m v s = memWrite (resolve m s).1 v (resolve m s).2 := rfl

/-- An immediate makes no access (41_addressing.md R173). -/
@[simp] theorem load_imm (b : Byte) (s : State) : load (.imm b) s = (b, s) := rfl

/-- A memory operand is one read of its effective address (R184). -/
theorem load_of_mem (m : Ea) (s : State) :
    load (.mem m) s = memRead .instruction (resolve m s).1 (resolve m s).2 := rfl

@[simp] theorem kindAt_resolve (m : Ea) (s : State) (a : Addr) :
    (resolve m s).2.kindAt a = s.kindAt a := kindAt_congr (resolve_cfg s m) a

/-- Resolving an address leaves memory alone. -/
@[simp] theorem memByte_resolve (m : Ea) (s : State) (a : Addr) :
    (resolve m s).2.memByte a = s.memByte a := by simp [State.memByte]

/-- A word read of two plain addresses: low byte first, and nothing but two gaps (00_scope.md R11). -/
theorem memRead2_plain {s : State} {a : Addr} (w : Accessor) (h0 : s.plainAt a = true)
    (h1 : s.plainAt (a + 1) = true) :
    memRead2 w a s = (word (s.traceRead (a + 1)) (s.traceRead a), gap (gap s)) := by
  unfold memRead2
  rw [memRead_plain h0]
  dsimp only
  rw [memRead_plain ((plainAt_congr (gap_cfg s) _).trans h1),
    traceRead_plain_congr (gap_cfg s) (gap_mem s) h1]

/-- A pointer read in page zero, both bytes plain; the second address stays in page zero (R11). -/
theorem readWordZP_plain {s : State} {z : Byte} (h0 : s.plainAt (zext z) = true)
    (h1 : s.plainAt (zext (z + 1)) = true) :
    readWordZP z s =
      (word (s.traceRead (zext (z + 1))) (s.traceRead (zext z)), gap (gap s)) := by
  unfold readWordZP
  rw [memRead_plain h0]
  dsimp only
  rw [memRead_plain ((plainAt_congr (gap_cfg s) _).trans h1),
    traceRead_plain_congr (gap_cfg s) (gap_mem s) h1]

/-- A pull from a stack in RAM: the byte above S (20_memory.md R74). -/
theorem pull_ram {s : State} (h : s.kindAt 0x0100 = some .ram) :
    pull s = (s.memByte (stackAddr (s.sp + 1)), gap (s.setSp (s.sp + 1))) := by
  have hk : (s.setSp (s.sp + 1)).kindAt (stackAddr (s.sp + 1)) = some .ram := by
    have := kindAt_stackAddr s (s.sp + 1) 0
    rw [kindAt_congr (State.setSp_cfg s _), this]
    exact h
  unfold pull
  rw [memRead_plain (plainAt_ram hk), traceRead_ram hk]
  rfl

/-- A byte of memory after a push (R74). -/
theorem memByte_push (v : Byte) (s : State) (b : Addr) :
    (push v s).memByte b =
      if b = stackAddr s.sp ∧ s.kindAt 0x0100 = some .ram then v else s.memByte b := by
  have h : s.kindAt (stackAddr s.sp) = s.kindAt 0x0100 := kindAt_stackAddr s s.sp 0
  rw [← h]
  exact memByte_memWrite _ _ _ _

end Sys2Proof.Machine
end

