-- ==== Sys2Proof/Laws/Frames.lean ====
section
/-!
SUPPORT. When the frames of Safety.lean hold: of a write-back of flags, of a write, of pushes; and the arithmetic of words
and stack addresses.
-/

namespace Sys2Proof.Machine

/-- A word as a number (20_memory.md R67). -/
theorem toNat_word (hi lo : Byte) : (word hi lo).toNat = 256 * hi.toNat + lo.toNat := by
  simp only [word, BitVec.toNat_append]
  rw [← Nat.shiftLeft_add_eq_or_of_lt lo.isLt, Nat.shiftLeft_eq]
  omega

/-- A word taken apart and put together. -/
theorem word_high_low (w : Addr) : word (highByte w) (lowByte w) = w := by
  apply BitVec.eq_of_toNat_eq
  have := w.isLt
  rw [toNat_word]
  simp only [highByte, lowByte, BitVec.extractLsb'_toNat, BitVec.toNat_setWidth,
    Nat.shiftRight_eq_div_pow]
  omega

@[simp] theorem highByte_word (hi lo : Byte) : highByte (word hi lo) = hi := by
  apply BitVec.eq_of_toNat_eq
  have := hi.isLt
  have := lo.isLt
  simp only [highByte, BitVec.extractLsb'_toNat, toNat_word, Nat.shiftRight_eq_div_pow]
  omega

@[simp] theorem lowByte_word (hi lo : Byte) : lowByte (word hi lo) = lo := by
  apply BitVec.eq_of_toNat_eq
  have := lo.isLt
  simp only [lowByte, BitVec.toNat_setWidth, toNat_word]
  omega

/-- A stack address as a number (20_memory.md R74). -/
theorem stackAddr_eq (p : Byte) : stackAddr p = BitVec.ofNat 16 (256 + p.toNat) := by
  apply BitVec.eq_of_toNat_eq
  simp [stackAddr, zext, BitVec.toNat_add]

/-- Two of the 256 stack addresses below S differ. -/
theorem stackAddr_sub_ne (p : Byte) {j k : Nat} (h : j < k) (hk : k < 256) :
    stackAddr (p - BitVec.ofNat 8 k) ≠ stackAddr (p - BitVec.ofNat 8 j) := by
  intro e
  have := stackAddr_inj e
  bv_omega

theorem SameBackground.refl (s : State) : SameBackground s s := by constructor <;> rfl

theorem SameBackground.trans {s t u : State} (h : SameBackground s t) (k : SameBackground t u) :
    SameBackground s u := by
  constructor
  · exact k.resetLatch.trans h.resetLatch
  · exact k.nmiLatch.trans h.nmiLatch
  · exact k.irqLatch.trans h.irqLatch
  · exact k.stopRequested.trans h.stopRequested
  · exact k.tape.trans h.tape
  · exact k.clockMHz.trans h.clockMHz
  · exact k.traceOn.trans h.traceOn
  · exact k.cfg.trans h.cfg

/-- A write-back of the flags of `SetNZ(v)` over an unchanged P (00_scope.md R13). -/
theorem NZFrom.of_applyFlags {s t u : State} {v : Byte} (hu : u.p = s.p)
    (ht : t.p = applyFlags u.p (nzOf v)) : NZFrom v s t := by
  refine ⟨?_, ?_, ?_, ?_⟩ <;> simp [State.flag, ht, hu, flag_applyFlags, nzOf, flagX_applyFlags]
  intro f
  cases f <;> simp

/-- A write-back of N, Z and C over an unchanged P (40_alu.md R152). -/
theorem NZCFrom.of_applyFlags {s t u : State} {v : Byte} {c : Bool} (hu : u.p = s.p)
    (ht : t.p = applyFlags u.p { n := some v.msb, z := some (v == 0), c := some c }) :
    NZCFrom v c s t := by
  refine ⟨?_, ?_, ?_, ?_, ?_⟩ <;> simp [State.flag, ht, hu, flag_applyFlags, flagX_applyFlags]
  intro f
  cases f <;> simp

/-- A write-back of any of N, Z, C and V over an unchanged P: the defined flags, and no other (40_alu.md R152). -/
theorem flags_of_applyFlags {s t u : State} {o : FlagOut} (hu : u.p = s.p)
    (ht : t.p = applyFlags u.p o) :
    t.flag .n = o.n.getD (s.flag .n) ∧ t.flag .z = o.z.getD (s.flag .z) ∧
      t.flag .c = o.c.getD (s.flag .c) ∧ t.flag .v = o.v.getD (s.flag .v) ∧
      FlagsKeptBut [.n, .z, .c, .v] s t := by
  refine ⟨?_, ?_, ?_, ?_, ?_, ?_⟩ <;> simp [State.flag, ht, hu, flag_applyFlags, flagX_applyFlags]
  intro f
  cases f <;> simp

/-- One write, with registers alone changed after it, has the frame of a store (20_memory.md R66). -/
theorem StoresAt.of_memWrite {e : Addr} {v : Byte} {s u t : State} (hb : SameBackground s u)
    (hh : u.halted = s.halted) (hm : u.mem = s.mem) (tb : SameBackground (memWrite e v u) t)
    (th : t.halted = u.halted) (tm : t.mem = (memWrite e v u).mem)
    (ta : t.acia = (memWrite e v u).acia) (te : t.events = (memWrite e v u).events)
    (tt : t.tick = (memWrite e v u).tick) : StoresAt e v s u t := by
  have hk : u.kindAt e = s.kindAt e := kindAt_congr hb.cfg e
  have hw : SameBackground u (memWrite e v u) := by constructor <;> rfl
  have key : ∀ b, t.memByte b = if b = e ∧ s.kindAt e = some .ram then v else s.memByte b := by
    intro b
    have := memByte_memWrite e v u b
    rw [hk] at this
    simp only [State.memByte, tm, hm] at this ⊢
    exact this
  refine ⟨(hb.trans hw).trans tb, th.trans hh, ?_, ?_, ta, te, tt⟩
  · rw [key]; simp
  · intro b hbe
    rw [key]; simp [hbe]

/-- No push, no change. -/
theorem PushesFrom.nil (s : State) : PushesFrom [] s s s := by
  refine ⟨SameBackground.refl s, rfl, by simp, by simp, fun _ _ => rfl, rfl, rfl, rfl⟩

/-- One push more (20_memory.md R74). -/
theorem PushesFrom.push {vs : List Byte} {s u t : State} (h : PushesFrom vs s u t) (v : Byte)
    (hl : vs.length < 255) : PushesFrom (vs ++ [v]) s (push v t) (push v t) := by
  have hk : t.kindAt 0x0100 = s.kindAt 0x0100 := kindAt_congr h.background.cfg _
  have hm := memByte_push v t
  have hb : SameBackground t (Machine.push v t) := by constructor <;> rfl
  refine ⟨h.background.trans hb, by simp [h.halted], ?_, ?_, ?_, rfl, rfl, rfl⟩
  · simp [h.sp]
    bv_omega
  · intro k hkk
    rw [hm, hk, h.sp]
    simp at hkk
    by_cases e : k = vs.length
    · subst e
      have := h.others (stackAddr (s.sp - BitVec.ofNat 8 vs.length))
        (fun k hk => stackAddr_sub_ne _ hk (by omega))
      simp [this]
    · have hlt : k < vs.length := by omega
      have := h.stored k hlt
      rw [if_neg]
      · rw [this]; simp [List.getElem_append_left hlt]
      · rintro ⟨e, -⟩
        exact stackAddr_sub_ne _ hlt (by omega) e.symm
  · intro b hb
    rw [hm]
    simp at hb
    rw [if_neg]
    · exact h.others b (fun k hk => hb k (by omega))
    · rintro ⟨e, -⟩
      rw [h.sp] at e
      exact hb _ (by omega) e

/-- What follows the pushes may change P, pc, the cycles and the devices. -/
theorem PushesFrom.congr {vs : List Byte} {s u t u' t' : State} (h : PushesFrom vs s u t)
    (hb : SameBackground t t') (hh : t'.halted = t.halted) (hs : t'.sp = t.sp)
    (hm : t'.mem = t.mem) (ha : t'.acia = u'.acia) (he : t'.events = u'.events)
    (ht : t'.tick = u'.tick) : PushesFrom vs s u' t' := by
  refine ⟨h.background.trans hb, hh.trans h.halted, hs.trans h.sp, ?_, ?_, ha, he, ht⟩
  · intro k hk
    rw [← h.stored k hk]
    simp [State.memByte, hm]
  · intro b hb
    rw [← h.others b hb]
    simp [State.memByte, hm]

/-- What saving a context does: three pushes, high byte of the address first, then P with B as asked and bit 5 set; P
keeps the new B and takes I (60_exceptions.md R458, R459, 45_control_flow.md R303). -/
theorem saveContext_pushes (ret : Addr) (brk : Option Bool) (s : State) :
    PushesFrom [highByte ret, lowByte ret, setFlag? s.p .b brk ||| 0x20] s
      (saveContext ret brk s) (saveContext ret brk s) := by
  have h2 := ((PushesFrom.nil s).push (highByte ret) (by simp)).push (lowByte ret) (by simp)
  have h2' := h2.congr (u' := (push (lowByte ret) (push (highByte ret) s)).setP
      (setFlag? s.p .b brk))
    (t' := (push (lowByte ret) (push (highByte ret) s)).setP (setFlag? s.p .b brk))
    (by constructor <;> rfl) rfl rfl rfl rfl rfl rfl
  have h3 := h2'.push (setFlag? s.p .b brk ||| 0x20) (by simp)
  exact h3.congr (by constructor <;> rfl) rfl rfl rfl rfl rfl rfl

end Sys2Proof.Machine
end

