-- ==== Sys2Proof/Laws/Interrupts.lean ====
section
/-!
SUPPORT. What taking an interrupt, returning from one and the three services leave in every field, and what they do to
the stack.
-/

namespace Sys2Proof.Machine

section
variable (s : State) (w : Accessor) (ret vec : Addr) (brk : Option Bool)

@[simp] theorem enterInterrupt_a : (enterInterrupt w ret brk vec s).a = s.a := by simp [enterInterrupt]
@[simp] theorem enterInterrupt_x : (enterInterrupt w ret brk vec s).x = s.x := by simp [enterInterrupt]
@[simp] theorem enterInterrupt_y : (enterInterrupt w ret brk vec s).y = s.y := by simp [enterInterrupt]
@[simp] theorem enterInterrupt_resetLatch : (enterInterrupt w ret brk vec s).resetLatch = s.resetLatch := by simp [enterInterrupt]
@[simp] theorem enterInterrupt_nmiLatch : (enterInterrupt w ret brk vec s).nmiLatch = s.nmiLatch := by simp [enterInterrupt]
@[simp] theorem enterInterrupt_irqLatch : (enterInterrupt w ret brk vec s).irqLatch = s.irqLatch := by simp [enterInterrupt]
@[simp] theorem enterInterrupt_stopRequested : (enterInterrupt w ret brk vec s).stopRequested = s.stopRequested := by simp [enterInterrupt]
@[simp] theorem enterInterrupt_tape : (enterInterrupt w ret brk vec s).tape = s.tape := by simp [enterInterrupt]
@[simp] theorem enterInterrupt_clockMHz : (enterInterrupt w ret brk vec s).clockMHz = s.clockMHz := by simp [enterInterrupt]
@[simp] theorem enterInterrupt_traceOn : (enterInterrupt w ret brk vec s).traceOn = s.traceOn := by simp [enterInterrupt]
@[simp] theorem enterInterrupt_cfg : (enterInterrupt w ret brk vec s).cfg = s.cfg := by simp [enterInterrupt]
@[simp] theorem enterInterrupt_halted : (enterInterrupt w ret brk vec s).halted = s.halted := by simp [enterInterrupt]
@[simp] theorem enterInterrupt_cycles : (enterInterrupt w ret brk vec s).cycles = s.cycles := by simp [enterInterrupt]
@[simp] theorem enterInterrupt_sp : (enterInterrupt w ret brk vec s).sp = s.sp - 1 - 1 - 1 := by simp [enterInterrupt]
@[simp] theorem enterInterrupt_p : (enterInterrupt w ret brk vec s).p = setFlag (setFlag? s.p .b brk) .i true := by
  simp [enterInterrupt]
@[simp] theorem enterInterrupt_mem : (enterInterrupt w ret brk vec s).mem = (saveContext ret brk s).mem := by
  simp [enterInterrupt]

@[simp] theorem returnFromInterrupt_p : (returnFromInterrupt s).p = (pull s).1 ||| 0x20 := rfl
@[simp] theorem returnFromInterrupt_sp : (returnFromInterrupt s).sp = s.sp + 1 + 1 + 1 := by
  simp [returnFromInterrupt]
@[simp] theorem returnFromInterrupt_a : (returnFromInterrupt s).a = s.a := by
  simp [returnFromInterrupt]
@[simp] theorem returnFromInterrupt_x : (returnFromInterrupt s).x = s.x := by
  simp [returnFromInterrupt]
@[simp] theorem returnFromInterrupt_y : (returnFromInterrupt s).y = s.y := by
  simp [returnFromInterrupt]
@[simp] theorem returnFromInterrupt_mem : (returnFromInterrupt s).mem = s.mem := by
  simp [returnFromInterrupt]
@[simp] theorem returnFromInterrupt_resetLatch : (returnFromInterrupt s).resetLatch = s.resetLatch := by
  simp [returnFromInterrupt]
@[simp] theorem returnFromInterrupt_nmiLatch : (returnFromInterrupt s).nmiLatch = s.nmiLatch := by
  simp [returnFromInterrupt]
@[simp] theorem returnFromInterrupt_irqLatch : (returnFromInterrupt s).irqLatch = s.irqLatch := by
  simp [returnFromInterrupt]
@[simp] theorem returnFromInterrupt_stopRequested : (returnFromInterrupt s).stopRequested = s.stopRequested := by
  simp [returnFromInterrupt]
@[simp] theorem returnFromInterrupt_tape : (returnFromInterrupt s).tape = s.tape := by
  simp [returnFromInterrupt]
@[simp] theorem returnFromInterrupt_clockMHz : (returnFromInterrupt s).clockMHz = s.clockMHz := by
  simp [returnFromInterrupt]
@[simp] theorem returnFromInterrupt_traceOn : (returnFromInterrupt s).traceOn = s.traceOn := by
  simp [returnFromInterrupt]
@[simp] theorem returnFromInterrupt_cfg : (returnFromInterrupt s).cfg = s.cfg := by
  simp [returnFromInterrupt]
@[simp] theorem returnFromInterrupt_halted : (returnFromInterrupt s).halted = s.halted := by
  simp [returnFromInterrupt]
@[simp] theorem returnFromInterrupt_cycles : (returnFromInterrupt s).cycles = s.cycles := by
  simp [returnFromInterrupt]

@[simp] theorem serviceNmi_a : (serviceNmi s).a = s.a := by simp [serviceNmi]
@[simp] theorem serviceNmi_x : (serviceNmi s).x = s.x := by simp [serviceNmi]
@[simp] theorem serviceNmi_y : (serviceNmi s).y = s.y := by simp [serviceNmi]
@[simp] theorem serviceNmi_resetLatch : (serviceNmi s).resetLatch = s.resetLatch := by simp [serviceNmi]
@[simp] theorem serviceNmi_irqLatch : (serviceNmi s).irqLatch = s.irqLatch := by simp [serviceNmi]
@[simp] theorem serviceNmi_stopRequested : (serviceNmi s).stopRequested = s.stopRequested := by simp [serviceNmi]
@[simp] theorem serviceNmi_tape : (serviceNmi s).tape = s.tape := by simp [serviceNmi]
@[simp] theorem serviceNmi_clockMHz : (serviceNmi s).clockMHz = s.clockMHz := by simp [serviceNmi]
@[simp] theorem serviceNmi_traceOn : (serviceNmi s).traceOn = s.traceOn := by simp [serviceNmi]
@[simp] theorem serviceNmi_cfg : (serviceNmi s).cfg = s.cfg := by simp [serviceNmi]
@[simp] theorem serviceNmi_halted : (serviceNmi s).halted = s.halted := by simp [serviceNmi]
@[simp] theorem serviceNmi_nmiLatch : (serviceNmi s).nmiLatch = false := by simp [serviceNmi]
@[simp] theorem serviceNmi_cycles : (serviceNmi s).cycles = s.cycles + 7 := by
  simp [serviceNmi, serviceCycles]
@[simp] theorem serviceNmi_sp : (serviceNmi s).sp = s.sp - 1 - 1 - 1 := by simp [serviceNmi]

@[simp] theorem serviceIrq_a : (serviceIrq s).a = s.a := by simp [serviceIrq]
@[simp] theorem serviceIrq_x : (serviceIrq s).x = s.x := by simp [serviceIrq]
@[simp] theorem serviceIrq_y : (serviceIrq s).y = s.y := by simp [serviceIrq]
@[simp] theorem serviceIrq_resetLatch : (serviceIrq s).resetLatch = s.resetLatch := by simp [serviceIrq]
@[simp] theorem serviceIrq_nmiLatch : (serviceIrq s).nmiLatch = s.nmiLatch := by simp [serviceIrq]
@[simp] theorem serviceIrq_stopRequested : (serviceIrq s).stopRequested = s.stopRequested := by simp [serviceIrq]
@[simp] theorem serviceIrq_tape : (serviceIrq s).tape = s.tape := by simp [serviceIrq]
@[simp] theorem serviceIrq_clockMHz : (serviceIrq s).clockMHz = s.clockMHz := by simp [serviceIrq]
@[simp] theorem serviceIrq_traceOn : (serviceIrq s).traceOn = s.traceOn := by simp [serviceIrq]
@[simp] theorem serviceIrq_cfg : (serviceIrq s).cfg = s.cfg := by simp [serviceIrq]
@[simp] theorem serviceIrq_halted : (serviceIrq s).halted = s.halted := by simp [serviceIrq]
@[simp] theorem serviceIrq_irqLatch : (serviceIrq s).irqLatch = false := by simp [serviceIrq]
@[simp] theorem serviceIrq_cycles : (serviceIrq s).cycles = s.cycles + 7 := by
  simp [serviceIrq, serviceCycles]
@[simp] theorem serviceIrq_sp : (serviceIrq s).sp = s.sp - 1 - 1 - 1 := by simp [serviceIrq]

@[simp] theorem serviceReset_stopRequested : (serviceReset s).stopRequested = s.stopRequested := by simp [serviceReset]
@[simp] theorem serviceReset_tape : (serviceReset s).tape = s.tape := by simp [serviceReset]
@[simp] theorem serviceReset_clockMHz : (serviceReset s).clockMHz = s.clockMHz := by simp [serviceReset]
@[simp] theorem serviceReset_traceOn : (serviceReset s).traceOn = s.traceOn := by simp [serviceReset]
@[simp] theorem serviceReset_cfg : (serviceReset s).cfg = s.cfg := by simp [serviceReset]
@[simp] theorem serviceReset_halted : (serviceReset s).halted = s.halted := by simp [serviceReset]
@[simp] theorem serviceReset_mem : (serviceReset s).mem = s.mem := by simp [serviceReset]

@[simp] theorem serviceSignals_stopRequested : (serviceSignals s).stopRequested = s.stopRequested := by
  unfold serviceSignals
  split
  · simp
  · split
    · simp
    · split <;> simp

@[simp] theorem serviceSignals_tape : (serviceSignals s).tape = s.tape := by
  unfold serviceSignals
  split
  · simp
  · split
    · simp
    · split <;> simp

@[simp] theorem serviceSignals_clockMHz : (serviceSignals s).clockMHz = s.clockMHz := by
  unfold serviceSignals
  split
  · simp
  · split
    · simp
    · split <;> simp

@[simp] theorem serviceSignals_traceOn : (serviceSignals s).traceOn = s.traceOn := by
  unfold serviceSignals
  split
  · simp
  · split
    · simp
    · split <;> simp

@[simp] theorem serviceSignals_cfg : (serviceSignals s).cfg = s.cfg := by
  unfold serviceSignals
  split
  · simp
  · split
    · simp
    · split <;> simp

@[simp] theorem serviceSignals_halted : (serviceSignals s).halted = s.halted := by
  unfold serviceSignals
  split
  · simp
  · split
    · simp
    · split <;> simp

end

/-- What taking an interrupt does (60_exceptions.md R458, R459, 45_control_flow.md R303): three pushes, and pc from the
vector, low byte first. -/
theorem enterInterrupt_pushes (w : Accessor) (ret : Addr) (brk : Option Bool) (vec : Addr)
    (s : State) :
    PushesFrom [highByte ret, lowByte ret, setFlag? s.p .b brk ||| 0x20] s
      (memRead2 w vec (saveContext ret brk s)).2 (enterInterrupt w ret brk vec s) := by
  refine (saveContext_pushes ret brk s).congr ?_ ?_ ?_ ?_ ?_ ?_ ?_
  · constructor <;> simp [enterInterrupt]
  all_goals simp [enterInterrupt]

/-- A pull from a stack in RAM: the byte above S, memory unchanged, the stack still in RAM. -/
theorem pull_spec {s : State} (h : s.kindAt 0x0100 = some .ram) :
    (pull s).1 = s.memByte (stackAddr (s.sp + 1)) ∧ (∀ b, (pull s).2.memByte b = s.memByte b) ∧
      (pull s).2.kindAt 0x0100 = some .ram := by
  refine ⟨by rw [pull_ram h], fun b => by simp [State.memByte], ?_⟩
  rw [kindAt_congr (pull_cfg s)]
  exact h

/-- A pushed byte read back where it stands, the stack page being RAM. -/
theorem PushesFrom.read {vs : List Byte} {s u t : State} (h : PushesFrom vs s u t)
    (hr : s.kindAt 0x0100 = some .ram) {k : Nat} (hk : k < vs.length) :
    t.memByte (stackAddr (s.sp - BitVec.ofNat 8 k)) = vs[k] := by
  rw [h.stored k hk, if_pos hr]

/-- Returning from an interrupt takes back what an entry pushed, the stack page being RAM (60_exceptions.md R462). -/
theorem returnFromInterrupt_of_pushes {ret : Addr} {P : Byte} {s u t : State}
    (h : PushesFrom [highByte ret, lowByte ret, P] s u t) (hr : s.kindAt 0x0100 = some .ram) :
    (returnFromInterrupt t).pc = ret ∧ (returnFromInterrupt t).p = P ||| 0x20 ∧
      (returnFromInterrupt t).sp = s.sp := by
  have htr : t.kindAt 0x0100 = some .ram := by
    rw [kindAt_congr h.background.cfg]
    exact hr
  have hsp : t.sp = s.sp - BitVec.ofNat 8 3 := h.sp
  have h1 := pull_spec htr
  have m1 : ∀ b, ((pull t).2.writeP (pull t).1).memByte b = t.memByte b := h1.2.1
  have h2 := pull_spec (s := (pull t).2.writeP (pull t).1) h1.2.2
  have h3 := pull_spec h2.2.2
  have e1 : t.sp + 1 = s.sp - BitVec.ofNat 8 2 := by rw [hsp]; bv_omega
  have e2 : ((pull t).2.writeP (pull t).1).sp + 1 = s.sp - BitVec.ofNat 8 1 := by
    simp [hsp]
    bv_omega
  have e3 : (pull ((pull t).2.writeP (pull t).1)).2.sp + 1 = s.sp - BitVec.ofNat 8 0 := by
    simp [hsp]
    bv_omega
  refine ⟨?_, ?_, ?_⟩
  · show word _ _ = _
    rw [h3.1, h2.1, e3, e2, h2.2.1, m1, m1, h.read hr (by simp), h.read hr (by simp)]
    simp [word_high_low]
  · rw [returnFromInterrupt_p, h1.1, e1, h.read hr (by simp)]
    rfl
  · rw [returnFromInterrupt_sp, hsp]
    bv_omega

end Sys2Proof.Machine
end

