-- ==== Sys2Proof/Laws/Fetch.lean ====
section
/-!
SUPPORT. Lengths, and what a fetch leaves in every field; what a gap, a read and a fetch change as one equation; the
answers of a step.
-/

namespace Sys2Proof.Machine

/-- The length of the decoded instruction follows from its opcode byte alone (30_encoding.md R101, R103). -/
theorem decodeOp_length (c : Config) (op b1 b2 : Byte) :
    (decodeOp c op b1 b2).length = opcodeLength c op := by
  unfold opcodeLength decodeOp
  split
  · rfl
  · split
    · rfl
    · unfold opcodeMap
      split <;> rfl

/-- An instruction has one, two or three bytes (R100). -/
theorem opcodeLength_range (c : Config) (op : Byte) :
    opcodeLength c op = 1 ∨ opcodeLength c op = 2 ∨ opcodeLength c op = 3 := by
  unfold opcodeLength decodeOp
  split
  · exact .inl rfl
  · split
    · exact .inr (.inl rfl)
    · unfold opcodeMap
      split <;> first | exact .inl rfl | exact .inr (.inl rfl) | exact .inr (.inr rfl)

/-- A gap changes the ACIA, the events and the count of gaps (20_memory.md R78). -/
theorem gap_eq (s : State) :
    gap s = { s with acia := (gap s).acia, events := (gap s).events, tick := s.tick + 1 } := rfl

/-- A read access changes the ACIA, the events and the count of gaps (R64). -/
theorem memRead_eq (w : Accessor) (a : Addr) (s : State) :
    (memRead w a s).2 =
      { s with
        acia := (memRead w a s).2.acia
        events := (memRead w a s).2.events
        tick := s.tick + 1 } := rfl

/-- A state that differs from `s` in the ACIA, the events and the count of gaps alone. -/
def DevicesOf (s t : State) (n : Nat) : Prop :=
  t = { s with acia := t.acia, events := t.events, tick := s.tick + n }

theorem DevicesOf.trans {s t u : State} {n m : Nat} (h : DevicesOf s t n) (k : DevicesOf t u m) :
    DevicesOf s u (n + m) := by
  unfold DevicesOf at *
  rw [h] at k
  rw [k]
  simp only [Nat.add_assoc]

theorem DevicesOf.memRead (w : Accessor) (a : Addr) (s : State) :
    DevicesOf s (memRead w a s).2 1 := rfl

theorem DevicesOf.noteTrace {s t : State} {n : Nat} (h : DevicesOf s t n) :
    DevicesOf s (noteTrace t) n := by
  unfold DevicesOf Machine.noteTrace at *
  rw [h]

/-- The three ways a fetch can go, by the length of the instruction (20_memory.md R84). -/
theorem fetch_cases (s : State) :
    (opcodeLength s.cfg (memRead .instruction s.pc s).1 = 1 ∧
      fetch s = (decodeOp s.cfg (memRead .instruction s.pc s).1 0 0,
        noteTrace (memRead .instruction s.pc s).2)) ∨
    (opcodeLength s.cfg (memRead .instruction s.pc s).1 = 2 ∧
      fetch s = (decodeOp s.cfg (memRead .instruction s.pc s).1
          (memRead .instruction (s.pc + 1) (memRead .instruction s.pc s).2).1 0,
        noteTrace (memRead .instruction (s.pc + 1) (memRead .instruction s.pc s).2).2)) ∨
    (opcodeLength s.cfg (memRead .instruction s.pc s).1 = 3 ∧
      fetch s = (decodeOp s.cfg (memRead .instruction s.pc s).1
          (memRead .instruction (s.pc + 1) (memRead .instruction s.pc s).2).1
          (memRead .instruction (s.pc + 2)
            (memRead .instruction (s.pc + 1) (memRead .instruction s.pc s).2).2).1,
        noteTrace (memRead .instruction (s.pc + 2)
          (memRead .instruction (s.pc + 1) (memRead .instruction s.pc s).2).2).2)) := by
  generalize hop : (memRead .instruction s.pc s).1 = op
  rcases opcodeLength_range s.cfg op with h | h | h
  · refine .inl ⟨h, ?_⟩
    simp only [fetch, hop, h]
    rfl
  · refine .inr (.inl ⟨h, ?_⟩)
    simp only [fetch, hop, h]
    rfl
  · refine .inr (.inr ⟨h, ?_⟩)
    simp only [fetch, hop, h]
    rfl

/-- A fetch changes only the ACIA, the events and the count of gaps, one gap for each byte. -/
theorem fetch_devices (s : State) : DevicesOf s (fetch s).2 (fetch s).1.length := by
  have h0 := DevicesOf.memRead .instruction s.pc s
  have h1 := h0.trans (DevicesOf.memRead .instruction (s.pc + 1) (memRead .instruction s.pc s).2)
  have h2 := h1.trans (DevicesOf.memRead .instruction (s.pc + 2)
    (memRead .instruction (s.pc + 1) (memRead .instruction s.pc s).2).2)
  rcases fetch_cases s with ⟨hl, hf⟩ | ⟨hl, hf⟩ | ⟨hl, hf⟩
  · rw [hf, decodeOp_length, hl]
    exact h0.noteTrace
  · rw [hf, decodeOp_length, hl]
    exact h1.noteTrace
  · rw [hf, decodeOp_length, hl]
    exact h2.noteTrace

section
variable (s : State)

@[simp] theorem fetch_a : (fetch s).2.a = s.a := by rw [fetch_devices s]
@[simp] theorem fetch_x : (fetch s).2.x = s.x := by rw [fetch_devices s]
@[simp] theorem fetch_y : (fetch s).2.y = s.y := by rw [fetch_devices s]
@[simp] theorem fetch_sp : (fetch s).2.sp = s.sp := by rw [fetch_devices s]
@[simp] theorem fetch_p : (fetch s).2.p = s.p := by rw [fetch_devices s]
@[simp] theorem fetch_pc : (fetch s).2.pc = s.pc := by rw [fetch_devices s]
@[simp] theorem fetch_resetLatch : (fetch s).2.resetLatch = s.resetLatch := by rw [fetch_devices s]
@[simp] theorem fetch_nmiLatch : (fetch s).2.nmiLatch = s.nmiLatch := by rw [fetch_devices s]
@[simp] theorem fetch_irqLatch : (fetch s).2.irqLatch = s.irqLatch := by rw [fetch_devices s]
@[simp] theorem fetch_halted : (fetch s).2.halted = s.halted := by rw [fetch_devices s]
@[simp] theorem fetch_stopRequested : (fetch s).2.stopRequested = s.stopRequested := by rw [fetch_devices s]
@[simp] theorem fetch_cycles : (fetch s).2.cycles = s.cycles := by rw [fetch_devices s]
@[simp] theorem fetch_mem : (fetch s).2.mem = s.mem := by rw [fetch_devices s]
@[simp] theorem fetch_tape : (fetch s).2.tape = s.tape := by rw [fetch_devices s]
@[simp] theorem fetch_clockMHz : (fetch s).2.clockMHz = s.clockMHz := by rw [fetch_devices s]
@[simp] theorem fetch_traceOn : (fetch s).2.traceOn = s.traceOn := by rw [fetch_devices s]
@[simp] theorem fetch_cfg : (fetch s).2.cfg = s.cfg := by rw [fetch_devices s]

end

/-- What a step answers: an idle gap, or one instruction run after the service and the fetch (60_exceptions.md R455). -/
theorem step_cases (s : State) :
    (s.idle = true ∧ step s = .next (gap s)) ∨
    (s.idle = false ∧ step s = exec (fetch (serviceSignals s)).1 (fetch (serviceSignals s)).2) := by
  rcases h : s.idle
  · exact .inr ⟨rfl, by simp [step, h]⟩
  · exact .inl ⟨rfl, by simp [step, h]⟩

end Sys2Proof.Machine
end

