-- ==== Sys2Proof/Laws/PerInstr.lean ====
section
/-!
SUPPORT. Statements about every instruction as syntax, one lemma for each constructor.
-/

namespace Sys2Proof.Laws

/-- A well-formed instruction has an opcode byte; it is encoded as that byte and its operand bytes, at most two of them
(30_encoding.md R100, R103). -/
def Encodes.Statement (i : Instr) : Prop :=
  ∀ c, i.wellFormed c = true →
    ∃ op, opcodeOf c i = some op ∧ encode c i = op :: i.operandBytes ∧ i.operandBytes.length ≤ 2

/-- An instruction whose opcode is known and whose operand bytes are at most two. -/
theorem encodes_of_opcode {i : Instr} {c : Config} {op : Byte} (h : opcodeOf c i = some op)
    (hl : i.operandBytes.length ≤ 2) :
    ∃ op, opcodeOf c i = some op ∧ encode c i = op :: i.operandBytes ∧ i.operandBytes.length ≤ 2 :=
  ⟨op, h, by simp [encode, h], hl⟩

theorem Encodes.lda (o : Src) : Encodes.Statement (.lda o) := by
  intro c h
  rcases o with b | m
  · exact encodes_of_opcode rfl (Nat.le_of_ble_eq_true rfl)
  · cases m <;>
      first | exact encodes_of_opcode rfl (Nat.le_of_ble_eq_true rfl) | exact absurd h Bool.false_ne_true

theorem Encodes.ldx (o : Src) : Encodes.Statement (.ldx o) := by
  intro c h
  rcases o with b | m
  · exact encodes_of_opcode rfl (Nat.le_of_ble_eq_true rfl)
  · cases m <;>
      first | exact encodes_of_opcode rfl (Nat.le_of_ble_eq_true rfl) | exact absurd h Bool.false_ne_true

theorem Encodes.ldy (o : Src) : Encodes.Statement (.ldy o) := by
  intro c h
  rcases o with b | m
  · exact encodes_of_opcode rfl (Nat.le_of_ble_eq_true rfl)
  · cases m <;>
      first | exact encodes_of_opcode rfl (Nat.le_of_ble_eq_true rfl) | exact absurd h Bool.false_ne_true

theorem Encodes.sta (m : Ea) : Encodes.Statement (.sta m) := by
  intro c h
  cases m <;> first | exact encodes_of_opcode rfl (Nat.le_of_ble_eq_true rfl) | exact absurd h Bool.false_ne_true

theorem Encodes.stx (m : Ea) : Encodes.Statement (.stx m) := by
  intro c h
  cases m <;> first | exact encodes_of_opcode rfl (Nat.le_of_ble_eq_true rfl) | exact absurd h Bool.false_ne_true

theorem Encodes.sty (m : Ea) : Encodes.Statement (.sty m) := by
  intro c h
  cases m <;> first | exact encodes_of_opcode rfl (Nat.le_of_ble_eq_true rfl) | exact absurd h Bool.false_ne_true

theorem Encodes.tax : Encodes.Statement .tax := fun _ _ => encodes_of_opcode rfl (Nat.le_of_ble_eq_true rfl)

theorem Encodes.tay : Encodes.Statement .tay := fun _ _ => encodes_of_opcode rfl (Nat.le_of_ble_eq_true rfl)

theorem Encodes.txa : Encodes.Statement .txa := fun _ _ => encodes_of_opcode rfl (Nat.le_of_ble_eq_true rfl)

theorem Encodes.tya : Encodes.Statement .tya := fun _ _ => encodes_of_opcode rfl (Nat.le_of_ble_eq_true rfl)

theorem Encodes.tsx : Encodes.Statement .tsx := fun _ _ => encodes_of_opcode rfl (Nat.le_of_ble_eq_true rfl)

theorem Encodes.txs : Encodes.Statement .txs := fun _ _ => encodes_of_opcode rfl (Nat.le_of_ble_eq_true rfl)

theorem Encodes.adc (o : Src) : Encodes.Statement (.adc o) := by
  intro c h
  rcases o with b | m
  · exact encodes_of_opcode rfl (Nat.le_of_ble_eq_true rfl)
  · cases m <;>
      first | exact encodes_of_opcode rfl (Nat.le_of_ble_eq_true rfl) | exact absurd h Bool.false_ne_true

theorem Encodes.sbc (o : Src) : Encodes.Statement (.sbc o) := by
  intro c h
  rcases o with b | m
  · exact encodes_of_opcode rfl (Nat.le_of_ble_eq_true rfl)
  · cases m <;>
      first | exact encodes_of_opcode rfl (Nat.le_of_ble_eq_true rfl) | exact absurd h Bool.false_ne_true

theorem Encodes.and (o : Src) : Encodes.Statement (.and o) := by
  intro c h
  rcases o with b | m
  · exact encodes_of_opcode rfl (Nat.le_of_ble_eq_true rfl)
  · cases m <;>
      first | exact encodes_of_opcode rfl (Nat.le_of_ble_eq_true rfl) | exact absurd h Bool.false_ne_true

theorem Encodes.ora (o : Src) : Encodes.Statement (.ora o) := by
  intro c h
  rcases o with b | m
  · exact encodes_of_opcode rfl (Nat.le_of_ble_eq_true rfl)
  · cases m <;>
      first | exact encodes_of_opcode rfl (Nat.le_of_ble_eq_true rfl) | exact absurd h Bool.false_ne_true

theorem Encodes.eor (o : Src) : Encodes.Statement (.eor o) := by
  intro c h
  rcases o with b | m
  · exact encodes_of_opcode rfl (Nat.le_of_ble_eq_true rfl)
  · cases m <;>
      first | exact encodes_of_opcode rfl (Nat.le_of_ble_eq_true rfl) | exact absurd h Bool.false_ne_true

theorem Encodes.cmp (o : Src) : Encodes.Statement (.cmp o) := by
  intro c h
  rcases o with b | m
  · exact encodes_of_opcode rfl (Nat.le_of_ble_eq_true rfl)
  · cases m <;>
      first | exact encodes_of_opcode rfl (Nat.le_of_ble_eq_true rfl) | exact absurd h Bool.false_ne_true

theorem Encodes.cpx (o : Src) : Encodes.Statement (.cpx o) := by
  intro c h
  rcases o with b | m
  · exact encodes_of_opcode rfl (Nat.le_of_ble_eq_true rfl)
  · cases m <;>
      first | exact encodes_of_opcode rfl (Nat.le_of_ble_eq_true rfl) | exact absurd h Bool.false_ne_true

theorem Encodes.cpy (o : Src) : Encodes.Statement (.cpy o) := by
  intro c h
  rcases o with b | m
  · exact encodes_of_opcode rfl (Nat.le_of_ble_eq_true rfl)
  · cases m <;>
      first | exact encodes_of_opcode rfl (Nat.le_of_ble_eq_true rfl) | exact absurd h Bool.false_ne_true

theorem Encodes.bit (m : Ea) : Encodes.Statement (.bit m) := by
  intro c h
  cases m <;> first | exact encodes_of_opcode rfl (Nat.le_of_ble_eq_true rfl) | exact absurd h Bool.false_ne_true

theorem Encodes.inc (m : Ea) : Encodes.Statement (.inc m) := by
  intro c h
  cases m <;> first | exact encodes_of_opcode rfl (Nat.le_of_ble_eq_true rfl) | exact absurd h Bool.false_ne_true

theorem Encodes.dec (m : Ea) : Encodes.Statement (.dec m) := by
  intro c h
  cases m <;> first | exact encodes_of_opcode rfl (Nat.le_of_ble_eq_true rfl) | exact absurd h Bool.false_ne_true

theorem Encodes.inx : Encodes.Statement .inx := fun _ _ => encodes_of_opcode rfl (Nat.le_of_ble_eq_true rfl)

theorem Encodes.iny : Encodes.Statement .iny := fun _ _ => encodes_of_opcode rfl (Nat.le_of_ble_eq_true rfl)

theorem Encodes.dex : Encodes.Statement .dex := fun _ _ => encodes_of_opcode rfl (Nat.le_of_ble_eq_true rfl)

theorem Encodes.dey : Encodes.Statement .dey := fun _ _ => encodes_of_opcode rfl (Nat.le_of_ble_eq_true rfl)

theorem Encodes.asl (d : Place) : Encodes.Statement (.asl d) := by
  intro c h
  rcases d with _ | m
  · exact encodes_of_opcode rfl (Nat.le_of_ble_eq_true rfl)
  · cases m <;>
      first | exact encodes_of_opcode rfl (Nat.le_of_ble_eq_true rfl) | exact absurd h Bool.false_ne_true

theorem Encodes.lsr (d : Place) : Encodes.Statement (.lsr d) := by
  intro c h
  rcases d with _ | m
  · exact encodes_of_opcode rfl (Nat.le_of_ble_eq_true rfl)
  · cases m <;>
      first | exact encodes_of_opcode rfl (Nat.le_of_ble_eq_true rfl) | exact absurd h Bool.false_ne_true

theorem Encodes.rol (d : Place) : Encodes.Statement (.rol d) := by
  intro c h
  rcases d with _ | m
  · exact encodes_of_opcode rfl (Nat.le_of_ble_eq_true rfl)
  · cases m <;>
      first | exact encodes_of_opcode rfl (Nat.le_of_ble_eq_true rfl) | exact absurd h Bool.false_ne_true

theorem Encodes.ror (d : Place) : Encodes.Statement (.ror d) := by
  intro c h
  rcases d with _ | m
  · exact encodes_of_opcode rfl (Nat.le_of_ble_eq_true rfl)
  · cases m <;>
      first | exact encodes_of_opcode rfl (Nat.le_of_ble_eq_true rfl) | exact absurd h Bool.false_ne_true

theorem Encodes.bcc (b : Byte) : Encodes.Statement (.bcc b) :=
  fun _ _ => encodes_of_opcode rfl (Nat.le_of_ble_eq_true rfl)

theorem Encodes.bcs (b : Byte) : Encodes.Statement (.bcs b) :=
  fun _ _ => encodes_of_opcode rfl (Nat.le_of_ble_eq_true rfl)

theorem Encodes.beq (b : Byte) : Encodes.Statement (.beq b) :=
  fun _ _ => encodes_of_opcode rfl (Nat.le_of_ble_eq_true rfl)

theorem Encodes.bmi (b : Byte) : Encodes.Statement (.bmi b) :=
  fun _ _ => encodes_of_opcode rfl (Nat.le_of_ble_eq_true rfl)

theorem Encodes.bne (b : Byte) : Encodes.Statement (.bne b) :=
  fun _ _ => encodes_of_opcode rfl (Nat.le_of_ble_eq_true rfl)

theorem Encodes.bpl (b : Byte) : Encodes.Statement (.bpl b) :=
  fun _ _ => encodes_of_opcode rfl (Nat.le_of_ble_eq_true rfl)

theorem Encodes.bvc (b : Byte) : Encodes.Statement (.bvc b) :=
  fun _ _ => encodes_of_opcode rfl (Nat.le_of_ble_eq_true rfl)

theorem Encodes.bvs (b : Byte) : Encodes.Statement (.bvs b) :=
  fun _ _ => encodes_of_opcode rfl (Nat.le_of_ble_eq_true rfl)

theorem Encodes.jmp (t : Target) : Encodes.Statement (.jmp t) := by
  intro c _
  cases t <;> exact encodes_of_opcode rfl (Nat.le_of_ble_eq_true rfl)

theorem Encodes.jsr (w : Addr) : Encodes.Statement (.jsr w) :=
  fun _ _ => encodes_of_opcode rfl (Nat.le_of_ble_eq_true rfl)

theorem Encodes.rts : Encodes.Statement .rts := fun _ _ => encodes_of_opcode rfl (Nat.le_of_ble_eq_true rfl)

theorem Encodes.rti : Encodes.Statement .rti := fun _ _ => encodes_of_opcode rfl (Nat.le_of_ble_eq_true rfl)

theorem Encodes.brk : Encodes.Statement .brk := fun _ _ => encodes_of_opcode rfl (Nat.le_of_ble_eq_true rfl)

theorem Encodes.pha : Encodes.Statement .pha := fun _ _ => encodes_of_opcode rfl (Nat.le_of_ble_eq_true rfl)

theorem Encodes.php : Encodes.Statement .php := fun _ _ => encodes_of_opcode rfl (Nat.le_of_ble_eq_true rfl)

theorem Encodes.pla : Encodes.Statement .pla := fun _ _ => encodes_of_opcode rfl (Nat.le_of_ble_eq_true rfl)

theorem Encodes.plp : Encodes.Statement .plp := fun _ _ => encodes_of_opcode rfl (Nat.le_of_ble_eq_true rfl)

theorem Encodes.clc : Encodes.Statement .clc := fun _ _ => encodes_of_opcode rfl (Nat.le_of_ble_eq_true rfl)

theorem Encodes.cld : Encodes.Statement .cld := fun _ _ => encodes_of_opcode rfl (Nat.le_of_ble_eq_true rfl)

theorem Encodes.cli : Encodes.Statement .cli := fun _ _ => encodes_of_opcode rfl (Nat.le_of_ble_eq_true rfl)

theorem Encodes.clv : Encodes.Statement .clv := fun _ _ => encodes_of_opcode rfl (Nat.le_of_ble_eq_true rfl)

theorem Encodes.sec : Encodes.Statement .sec := fun _ _ => encodes_of_opcode rfl (Nat.le_of_ble_eq_true rfl)

theorem Encodes.sed : Encodes.Statement .sed := fun _ _ => encodes_of_opcode rfl (Nat.le_of_ble_eq_true rfl)

theorem Encodes.sei : Encodes.Statement .sei := fun _ _ => encodes_of_opcode rfl (Nat.le_of_ble_eq_true rfl)

theorem Encodes.nop : Encodes.Statement .nop := fun _ _ => encodes_of_opcode rfl (Nat.le_of_ble_eq_true rfl)

theorem Encodes.undef (op : Byte) : Encodes.Statement (.undef op) := by
  intro c h
  have h' : (Instr.undef op).undefinedByteOk c = true := by
    simp only [Instr.wellFormed, Bool.and_eq_true] at h
    exact h.2
  exact encodes_of_opcode (op := op) (by simp [opcodeOf, h']) (Nat.le_of_ble_eq_true rfl)

theorem Encodes.halt : Encodes.Statement .halt := fun _ _ => encodes_of_opcode rfl (Nat.le_of_ble_eq_true rfl)

theorem Encodes.debug (b : Byte) : Encodes.Statement (.debug b) :=
  fun _ _ => encodes_of_opcode rfl (Nat.le_of_ble_eq_true rfl)

end Sys2Proof.Laws
end

