-- ==== Sys2Proof/Laws/Power.lean ====
section
/-!
SUPPORT. Every memory operation of the machine keeps the canonical form, and the memory of `State.reset` has it; the
standard configuration with ROM images of zero bytes is built, and is `State.reset`.
-/

namespace Sys2Proof.Machine

/-- A write access keeps memory in canonical form. -/
theorem memWrite_wf {s : State} (h : Mem.wf s.mem) (a : Addr) (v : Byte) :
    Mem.wf (memWrite a v s).mem := by
  show Mem.wf (memAfterWrite a v (gap s))
  unfold memAfterWrite
  split
  · exact memSet_wf h a.isLt v
  · exact h

/-- So does a push. -/
theorem push_wf {s : State} (h : Mem.wf s.mem) (v : Byte) : Mem.wf (push v s).mem :=
  memWrite_wf h _ v

/-- The memory of `State.reset` is in canonical form. -/
theorem reset_mem_wf : Mem.wf State.reset.mem := nil_wf

/-- The machine of the standard configuration with RAM of zero bytes and ROM images of zero bytes is built, and it is
`State.reset` (log 5, log 6). -/
theorem powerOn_standard (r1 r2 : List Byte) (h1 : r1 = List.replicate (256 * 0x20) fillByte)
    (h2 : r2 = List.replicate (256 * 8) fillByte) :
    powerOn Config.standard [none, some r1, none, none, none, some r2] = .ok State.reset := by
  have l1 : r1.length = 8192 := by rw [h1, List.length_replicate]
  have l2 : r2.length = 2048 := by rw [h2, List.length_replicate]
  have m1 : ∀ a, memSetList [] a (r1.take 8192) = [] := by
    intro a
    rw [← l1, List.take_length, h1, memSetList_fill]
  have m2 : ∀ a, memSetList [] a (r2.take 2048) = [] := by
    intro a
    rw [← l2, List.take_length, h2, memSetList_fill]
  have hf : configFault Config.standard [none, some r1, none, none, none, some r2] = none := by
    simp [configFault, regionsFault, regionFault, regionFault.spanFault, Config.standard, baseBlock,
      l1, l2]
  unfold powerOn
  rw [hf]
  simp [registerAll, registerBytes, regionBytes, Config.standard, memErase, memSetList, m1, m2,
    State.reset]

end Sys2Proof.Machine
end

