-- ==== Sys2Proof/Machine/Timing.lean ====
section
/-!
DEFINITION. Timing that the spec writes down and no functional rule depends on: the ACIA's character duration
(47_acia.md R376, R377) and the pacing target (70_reset_and_hazards.md R501).
-/

namespace Sys2Proof.Machine

/-- The clock divisor of control bits 1:0 (R364); `aciaDiv3` for 11. -/
def divisor (c : Config) (ctrl : Byte) : Nat :=
  match ctrl.getLsbD 1, ctrl.getLsbD 0 with
  | false, false => 1
  | false, true => 16
  | true, false => 64
  | true, true => c.aciaDiv3

/-- `charBits(ws)`, `ws` the word-select field, control bits 4:2 (R377). -/
def charBits (ctrl : Byte) : Nat :=
  match ctrl.getLsbD 4, ctrl.getLsbD 3, ctrl.getLsbD 2 with
  | false, false, false => 11
  | false, false, true => 11
  | false, true, false => 10
  | false, true, true => 10
  | true, false, false => 11
  | true, false, true => 10
  | true, true, false => 11
  | true, true, true => 11

/-- The per-character transfer duration `T` in seconds (R376). -/
def charSeconds (c : Config) (ctrl : Byte) : Rat :=
  (divisor c ctrl * charBits ctrl : Nat) / c.aciaClockHz

/-- The effective baud rate (R376). -/
def effectiveBaud (c : Config) (ctrl : Byte) : Rat := c.aciaClockHz / (divisor c ctrl : Nat)

/-- The simulated target time in seconds, cycles executed times the per-cycle duration (R501); none when
unregulated. -/
def targetSeconds (s : State) : Option Rat :=
  if s.clockMHz = 0 then none else some ((s.cycles : Rat) / (s.clockMHz * 1000000))

end Sys2Proof.Machine
end

