-- ==== Sys2Proof/Tests/Slice0.lean ====
section
/-!
SUPPORT. Tests: well-formedness, decoding of words written out from the encodings, the vectors of 95_test_vectors.md, and
a witness of the hypotheses of each statement. The expected results are the spec's.
-/

namespace Sys2Proof.Tests

open Sys2Proof.Machine

/-- The decoder reads exactly this instruction from exactly these bytes. -/
def reads (bs : List Byte) (i : Instr) : Bool :=
  match decode Config.standard bs with
  | .ok (j, rest) => j == i && rest == []
  | .error _ => false

/-- A running machine of the standard configuration with a program at `pc` and bytes elsewhere. -/
def machine (pc : Addr) (prog : List Byte) (bytes : List (Addr × Byte)) : State :=
  let s : State := { State.reset with resetLatch := false, pc := pc, p := 0x20, sp := 0xFF }
  bytes.foldl (fun t c => pokeBytes [c.2] c.1 t) (pokeBytes prog pc s)

/-- What one step leaves in a view of the state. -/
def after {α : Type} (s : State) (view : State → α) : Option α :=
  match step s with
  | .next t => some (view t)
  | .fault _ => none
  | .refused _ => none

-- WellFormed: a term for each check, which the check refuses.

theorem test_ill_formed_mode : (Instr.sta (.zpy 0x10)).wellFormed Config.standard = false := by decide

theorem test_ill_formed_mode_of_source : (Instr.ldx (.mem (.zpx 0x10))).wellFormed Config.standard = false := by decide

theorem test_ill_formed_documented_as_undefined : (Instr.undef 0xEA).wellFormed Config.standard = false := by decide

theorem test_ill_formed_halt_as_undefined : (Instr.undef 0x02).wellFormed Config.standard = false := by decide

theorem test_ill_formed_debug_as_undefined : (Instr.undef 0x12).wellFormed Config.standard = false := by decide

theorem test_well_formed_undefined : (Instr.undef 0x03).wellFormed Config.standard = true := by decide

-- Decoding: every constructor, from the Encoding line of its rule.

theorem test_decode_loads :
    reads [0xA9, 0x80] (.lda (.imm 0x80)) = true ∧
    reads [0xB1, 0x30] (.lda (.mem (.indy 0x30))) = true ∧
    reads [0xBD, 0x00, 0x03] (.lda (.mem (.absx 0x0300))) = true ∧
    reads [0xB6, 0x0F] (.ldx (.mem (.zpy 0x0F))) = true ∧
    reads [0xA2, 0x00] (.ldx (.imm 0x00)) = true ∧
    reads [0xA0, 0xFF] (.ldy (.imm 0xFF)) = true ∧
    reads [0xBC, 0x34, 0x12] (.ldy (.mem (.absx 0x1234))) = true := by decide

theorem test_decode_stores :
    reads [0x8D, 0x00, 0x02] (.sta (.abs 0x0200)) = true ∧
    reads [0x81, 0x20] (.sta (.indx 0x20)) = true ∧
    reads [0x99, 0x00, 0x04] (.sta (.absy 0x0400)) = true ∧
    reads [0x96, 0x10] (.stx (.zpy 0x10)) = true ∧
    reads [0x94, 0x01] (.sty (.zpx 0x01)) = true := by decide

theorem test_decode_transfers :
    reads [0xAA] (.tax) = true ∧
    reads [0xA8] (.tay) = true ∧
    reads [0x8A] (.txa) = true ∧
    reads [0x98] (.tya) = true ∧
    reads [0xBA] (.tsx) = true ∧
    reads [0x9A] (.txs) = true := by decide

theorem test_decode_arithmetic :
    reads [0x69, 0x01] (.adc (.imm 0x01)) = true ∧
    reads [0xE9, 0x10] (.sbc (.imm 0x10)) = true ∧
    reads [0x29, 0x0F] (.and (.imm 0x0F)) = true ∧
    reads [0x09, 0x80] (.ora (.imm 0x80)) = true ∧
    reads [0x49, 0x7F] (.eor (.imm 0x7F)) = true ∧
    reads [0xC9, 0x20] (.cmp (.imm 0x20)) = true ∧
    reads [0xE0, 0x05] (.cpx (.imm 0x05)) = true ∧
    reads [0xC0, 0x00] (.cpy (.imm 0x00)) = true ∧
    reads [0x24, 0x10] (.bit (.zp 0x10)) = true ∧
    reads [0xE6, 0x10] (.inc (.zp 0x10)) = true ∧
    reads [0xCE, 0x00, 0x02] (.dec (.abs 0x0200)) = true ∧
    reads [0xE8] (.inx) = true ∧
    reads [0xC8] (.iny) = true ∧
    reads [0xCA] (.dex) = true ∧
    reads [0x88] (.dey) = true := by decide

theorem test_decode_shifts :
    reads [0x0A] (.asl .acc) = true ∧
    reads [0x46, 0x10] (.lsr (.mem (.zp 0x10))) = true ∧
    reads [0x2A] (.rol .acc) = true ∧
    reads [0x3E, 0x00, 0x03] (.rol (.mem (.absx 0x0300))) = true ∧
    reads [0x6E, 0x00, 0x03] (.ror (.mem (.abs 0x0300))) = true := by decide

theorem test_decode_control :
    reads [0x90, 0x10] (.bcc 0x10) = true ∧
    reads [0xB0, 0xF0] (.bcs 0xF0) = true ∧
    reads [0xF0, 0x00] (.beq 0x00) = true ∧
    reads [0x30, 0x7F] (.bmi 0x7F) = true ∧
    reads [0xD0, 0x80] (.bne 0x80) = true ∧
    reads [0x10, 0xFE] (.bpl 0xFE) = true ∧
    reads [0x50, 0x02] (.bvc 0x02) = true ∧
    reads [0x70, 0x02] (.bvs 0x02) = true ∧
    reads [0x4C, 0x0C, 0x02] (.jmp (.abs 0x020C)) = true ∧
    reads [0x6C, 0xFF, 0x10] (.jmp (.ind 0x10FF)) = true ∧
    reads [0x20, 0x00, 0x03] (.jsr 0x0300) = true ∧
    reads [0x60] (.rts) = true ∧
    reads [0x40] (.rti) = true ∧
    reads [0x00] (.brk) = true := by decide

theorem test_decode_stack_and_flags :
    reads [0x48] (.pha) = true ∧
    reads [0x08] (.php) = true ∧
    reads [0x68] (.pla) = true ∧
    reads [0x28] (.plp) = true ∧
    reads [0x18] (.clc) = true ∧
    reads [0xD8] (.cld) = true ∧
    reads [0x58] (.cli) = true ∧
    reads [0xB8] (.clv) = true ∧
    reads [0x38] (.sec) = true ∧
    reads [0xF8] (.sed) = true ∧
    reads [0x78] (.sei) = true ∧
    reads [0xEA] (.nop) = true ∧
    reads [0xFF] (.undef 0xFF) = true ∧
    reads [0x02] (.halt) = true ∧
    reads [0x12, 0x01] (.debug 0x01) = true := by decide

theorem test_table_word : decodeTableWord 24 0x030020 = some (.jsr 0x0300) := by decide

-- The ALU: U1 to U35.

theorem test_add_binary :
    addBinary 0x50 0x50 false = ⟨0xA0, { n := some true, z := some false, c := some false, v := some true }⟩ ∧
    addBinary 0xFF 0x01 false = ⟨0x00, { n := some false, z := some true, c := some true, v := some false }⟩ ∧
    addBinary 0x80 0x80 false = ⟨0x00, { n := some false, z := some true, c := some true, v := some true }⟩ ∧
    addBinary 0x7F 0x7F true = ⟨0xFF, { n := some true, z := some false, c := some false, v := some true }⟩ ∧
    addBinary 0xFF 0xFF true = ⟨0xFF, { n := some true, z := some false, c := some true, v := some false }⟩ := by decide

theorem test_sub_binary :
    subBinary 0x50 0xF0 true = ⟨0x60, { n := some false, z := some false, c := some false, v := some false }⟩ ∧
    subBinary 0x00 0x01 true = ⟨0xFF, { n := some true, z := some false, c := some false, v := some false }⟩ ∧
    subBinary 0x80 0x01 true = ⟨0x7F, { n := some false, z := some false, c := some true, v := some true }⟩ ∧
    subBinary 0x05 0x05 false = ⟨0xFF, { n := some true, z := some false, c := some false, v := some false }⟩ ∧
    subBinary 0x05 0x05 true = ⟨0x00, { n := some false, z := some true, c := some true, v := some false }⟩ := by decide

theorem test_decimal :
    addDecimal 0x58 0x46 false = ⟨0x04, { n := some false, z := some false, c := some true }⟩ ∧
    addDecimal 0x09 0x01 false = ⟨0x10, { n := some false, z := some false, c := some false }⟩ ∧
    addDecimal 0x79 0x00 true = ⟨0x80, { n := some true, z := some false, c := some false }⟩ ∧
    addDecimal 0x0F 0x01 false = ⟨0x16, { n := some false, z := some false, c := some false }⟩ ∧
    addDecimal 0x99 0x99 true = ⟨0x99, { n := some true, z := some false, c := some true }⟩ ∧
    subDecimal 0x42 0x13 true = ⟨0x29, { n := some false, z := some false, c := some true }⟩ ∧
    subDecimal 0x00 0x01 true = ⟨0x99, { n := some true, z := some false, c := some false }⟩ ∧
    subDecimal 0x50 0x50 true = ⟨0x00, { n := some false, z := some true, c := some true }⟩ := by decide

theorem test_compare :
    aluCmp 0x10 0x20 = { n := some true, z := some false, c := some false } ∧
    aluCmp 0x20 0x20 = { n := some false, z := some true, c := some true } ∧
    aluCmp 0xFF 0x00 = { n := some true, z := some false, c := some true } ∧
    aluCmp 0x00 0xFF = { n := some false, z := some false, c := some false } := by decide

theorem test_logic_and_shifts :
    aluAnd 0xF0 0x0F = ⟨0x00, { n := some false, z := some true }⟩ ∧
    aluOr 0x80 0x01 = ⟨0x81, { n := some true, z := some false }⟩ ∧
    aluXor 0xFF 0x7F = ⟨0x80, { n := some true, z := some false }⟩ ∧
    aluShl 0x81 = ⟨0x02, { n := some false, z := some false, c := some true }⟩ ∧
    aluShl 0x40 = ⟨0x80, { n := some true, z := some false, c := some false }⟩ ∧
    aluShr 0x01 = ⟨0x00, { n := some false, z := some true, c := some true }⟩ ∧
    aluShr 0xFF = ⟨0x7F, { n := some false, z := some false, c := some true }⟩ ∧
    aluRol 0x80 false = ⟨0x00, { n := some false, z := some true, c := some true }⟩ ∧
    aluRol 0x40 true = ⟨0x81, { n := some true, z := some false, c := some false }⟩ ∧
    aluRor 0x01 false = ⟨0x00, { n := some false, z := some true, c := some true }⟩ ∧
    aluRor 0x00 true = ⟨0x80, { n := some true, z := some false, c := some false }⟩ ∧
    aluInc 0xFF = ⟨0x00, { n := some false, z := some true }⟩ ∧
    aluDec 0x00 = ⟨0xFF, { n := some true, z := some false }⟩ := by decide

-- Addresses: M1 to M14.

theorem test_indexed_addresses :
    (resolve (.zpx 0xF0) { machine 0x0300 [] [] with x := 0x20 }).1 = 0x0010 ∧
    (resolve (.zpy 0xFF) { machine 0x0300 [] [] with y := 0x01 }).1 = 0x0000 ∧
    (resolve (.absx 0xFFFF) { machine 0x0300 [] [] with x := 0x01 }).1 = 0x0000 ∧
    (resolve (.absy 0x12F0) { machine 0x0300 [] [] with y := 0x20 }).1 = 0x1310 := by decide

theorem test_indirect_addresses :
    (resolve (.indx 0xFE) { machine 0x0300 [] [(0x0000, 0x30), (0x0100, 0x99)] with x := 0x01 }).1 = 0x3000 ∧
    (resolve (.indx 0x80) { machine 0x0300 [] [(0x0011, 0x04)] with x := 0x90 }).1 = 0x0400 ∧
    (resolve (.indy 0x20) { machine 0x0300 [] [(0x0020, 0xFF), (0x0021, 0x10)] with y := 0x01 }).1 = 0x1100 ∧
    (resolve (.indy 0xFF) { machine 0x0300 [] [(0x00FF, 0x34), (0x0000, 0x12), (0x0100, 0x99)] with y := 0x00 }).1 = 0x1234 ∧
    (resolve (.indy 0x20) { machine 0x0300 [] [(0x0020, 0xFF), (0x0021, 0xFF)] with y := 0x02 }).1 = 0x0001 := by decide

theorem test_branch_targets :
    branchTarget 0x0300 0x10 = 0x0312 ∧ branchTarget 0x0310 0x80 = 0x0292 ∧
    branchTarget 0xFFF0 0x7F = 0x0071 := by decide

-- One step of each instruction: T, N, H, B and K vectors, and the examples of the rules.

theorem test_lda_zero :
    after (machine 0x0300 [0xA9, 0x00] []) (fun t => (t.a, t.p, t.pc)) =
      some (0x00, 0x22, 0x0302) := by decide

theorem test_lda_keeps_carry :
    after { machine 0x0300 [0xA9, 0x80] [] with p := 0x23 } (fun t => (t.a, t.p)) =
      some (0x80, 0xA1) := by decide

theorem test_ldx_zpy_zero :
    after { machine 0x0300 [0xB6, 0x0F] [] with y := 0x01, x := 0x33 } (fun t => (t.x, t.p)) =
      some (0x00, 0x22) := by decide

theorem test_ldy_negative :
    after (machine 0x0300 [0xA0, 0xFF] []) (fun t => (t.y, t.p)) =
      some (0xFF, 0xA0) := by decide

theorem test_sta :
    after { machine 0x0300 [0x85, 0x10] [] with a := 0x55, p := 0x22 } (fun t => (t.memByte 0x0010, t.p)) =
      some (0x55, 0x22) := by decide

theorem test_sta_rom_discarded :
    after { machine 0x0300 [0x8D, 0x00, 0xA0] [(0xA000, 0xEE)] with a := 0x11 } (fun t => (t.memByte 0xA000, t.pc)) =
      some (0xEE, 0x0303) := by decide

theorem test_stx :
    after { machine 0x0300 [0x86, 0x10] [] with x := 0x07 } (fun t => (t.memByte 0x0010)) =
      some (0x07) := by decide

theorem test_sty_wraps :
    after { machine 0x0300 [0x94, 0x01] [] with y := 0x09, x := 0xFF } (fun t => (t.memByte 0x0000)) =
      some (0x09) := by decide

theorem test_lda_open_bus :
    after (machine 0x0300 [0xAD, 0x34, 0x90] []) (fun t => (t.a, t.p)) =
      some (0x90, 0xA0) := by decide

theorem test_tax :
    after { machine 0x0300 [0xAA] [] with p := 0x80, x := 0x11 } (fun t => (t.x, t.p)) =
      some (0x00, 0x02) := by decide

theorem test_tay :
    after { machine 0x0300 [0xA8] [] with a := 0x80 } (fun t => (t.y, t.p)) =
      some (0x80, 0xA0) := by decide

theorem test_txa :
    after { machine 0x0300 [0x8A] [] with x := 0x01 } (fun t => (t.a, t.p)) =
      some (0x01, 0x20) := by decide

theorem test_tya :
    after { machine 0x0300 [0x98] [] with y := 0xFE } (fun t => (t.a, t.p)) =
      some (0xFE, 0xA0) := by decide

theorem test_tsx :
    after { machine 0x0300 [0xBA] [] with sp := 0x80 } (fun t => (t.x, t.p)) =
      some (0x80, 0xA0) := by decide

theorem test_txs :
    after { machine 0x0300 [0x9A] [] with x := 0xFF, sp := 0x12 } (fun t => (t.sp, t.p)) =
      some (0xFF, 0x20) := by decide

theorem test_adc_binary :
    after { machine 0x0300 [0x69, 0x50] [] with a := 0x50 } (fun t => (t.a, t.p)) =
      some (0xA0, 0xE0) := by decide

theorem test_adc_decimal :
    after { machine 0x0300 [0x69, 0x46] [] with a := 0x58, p := 0x68 } (fun t => (t.a, t.p)) =
      some (0x04, 0x69) := by decide

theorem test_sbc_binary :
    after { machine 0x0300 [0xE9, 0x01] [] with p := 0x21 } (fun t => (t.a, t.p)) =
      some (0xFF, 0xA0) := by decide

theorem test_sbc_decimal :
    after { machine 0x0300 [0xE9, 0x01] [] with p := 0x29 } (fun t => (t.a, t.p)) =
      some (0x99, 0xA8) := by decide

theorem test_and :
    after { machine 0x0300 [0x25, 0x10] [(0x0010, 0xF0)] with a := 0x0F } (fun t => (t.a, t.p)) =
      some (0x00, 0x22) := by decide

theorem test_ora :
    after { machine 0x0300 [0x09, 0x80] [] with a := 0x01 } (fun t => (t.a, t.p)) =
      some (0x81, 0xA0) := by decide

theorem test_eor :
    after { machine 0x0300 [0x49, 0xFF] [] with a := 0xFF } (fun t => (t.a, t.p)) =
      some (0x00, 0x22) := by decide

theorem test_cmp :
    after { machine 0x0300 [0xC9, 0x40] [] with a := 0x40 } (fun t => (t.a, t.p)) =
      some (0x40, 0x23) := by decide

theorem test_cpx :
    after { machine 0x0300 [0xE0, 0x02] [] with x := 0x01 } (fun t => (t.p)) =
      some (0xA0) := by decide

theorem test_cpy :
    after { machine 0x0300 [0xC0, 0x7F] [] with y := 0x80 } (fun t => (t.p)) =
      some (0x21) := by decide

theorem test_bit_sets :
    after { machine 0x0300 [0x24, 0x10] [(0x0010, 0xC0)] with a := 0x01 } (fun t => (t.a, t.p)) =
      some (0x01, 0xE2) := by decide

theorem test_bit_clears :
    after { machine 0x0300 [0x24, 0x10] [(0x0010, 0x3F)] with a := 0xFF, p := 0xE0 } (fun t => (t.p)) =
      some (0x20) := by decide

theorem test_inc :
    after { machine 0x0300 [0xE6, 0x10] [(0x0010, 0xFF)] with p := 0x29 } (fun t => (t.memByte 0x0010, t.p)) =
      some (0x00, 0x2B) := by decide

theorem test_dec :
    after { machine 0x0300 [0xD6, 0x10] [] with x := 0x10 } (fun t => (t.memByte 0x0020, t.p)) =
      some (0xFF, 0xA0) := by decide

theorem test_inx :
    after { machine 0x0300 [0xE8] [] with x := 0xFF } (fun t => (t.x, t.p)) =
      some (0x00, 0x22) := by decide

theorem test_iny :
    after { machine 0x0300 [0xC8] [] with y := 0xFF } (fun t => (t.y, t.p)) =
      some (0x00, 0x22) := by decide

theorem test_dex :
    after { machine 0x0300 [0xCA] [] with x := 0x01 } (fun t => (t.x, t.p)) =
      some (0x00, 0x22) := by decide

theorem test_dey :
    after (machine 0x0300 [0x88] []) (fun t => (t.y, t.p)) =
      some (0xFF, 0xA0) := by decide

theorem test_asl :
    after { machine 0x0300 [0x0A] [] with a := 0x80, p := 0x60 } (fun t => (t.a, t.p)) =
      some (0x00, 0x63) := by decide

theorem test_lsr :
    after (machine 0x0300 [0x46, 0x10] [(0x0010, 0x01)]) (fun t => (t.memByte 0x0010, t.p)) =
      some (0x00, 0x23) := by decide

theorem test_rol :
    after { machine 0x0300 [0x2A] [] with a := 0x40, p := 0x21 } (fun t => (t.a, t.p)) =
      some (0x81, 0xA0) := by decide

theorem test_ror :
    after { machine 0x0300 [0x6E, 0x00, 0x04] [] with p := 0x21 } (fun t => (t.memByte 0x0400, t.p)) =
      some (0x80, 0xA0) := by decide

theorem test_bcc_taken :
    after (machine 0x0300 [0x90, 0x10] []) (fun t => (t.pc, t.cycles)) =
      some (0x0312, 3) := by decide

theorem test_bcc_not_taken :
    after { machine 0x0300 [0x90, 0x10] [] with p := 0x21 } (fun t => (t.pc, t.cycles)) =
      some (0x0302, 2) := by decide

theorem test_bcs :
    after { machine 0x0300 [0xB0, 0xF0] [] with p := 0x21 } (fun t => (t.pc)) =
      some (0x02F2) := by decide

theorem test_beq :
    after { machine 0x0300 [0xF0, 0x00] [] with p := 0x22 } (fun t => (t.pc, t.cycles)) =
      some (0x0302, 3) := by decide

theorem test_bmi :
    after { machine 0xFFF0 [0x30, 0x7F] [] with p := 0xA0 } (fun t => (t.pc)) =
      some (0x0071) := by decide

theorem test_bne :
    after (machine 0x0010 [0xD0, 0x80] []) (fun t => (t.pc)) =
      some (0xFF92) := by decide

theorem test_bpl :
    after (machine 0x0300 [0x10, 0xFE] []) (fun t => (t.pc)) =
      some (0x0300) := by decide

theorem test_bvc :
    after (machine 0x0300 [0x50, 0x02] []) (fun t => (t.pc)) =
      some (0x0304) := by decide

theorem test_bvs :
    after { machine 0x0300 [0x70, 0x02] [] with p := 0x60 } (fun t => (t.pc)) =
      some (0x0304) := by decide

theorem test_jmp_absolute :
    after (machine 0x0200 [0x4C, 0x00, 0x03] []) (fun t => (t.pc)) =
      some (0x0300) := by decide

theorem test_jmp_indirect_crosses_page :
    after (machine 0x0300 [0x6C, 0xFF, 0x10] [(0x10FF, 0x34), (0x1100, 0x12), (0x1000, 0x99)]) (fun t => (t.pc)) =
      some (0x1234) := by decide

theorem test_jsr :
    after (machine 0x0200 [0x20, 0x00, 0x03] []) (fun t => (t.memByte 0x01FF, t.memByte 0x01FE, t.sp, t.pc)) =
      some (0x02, 0x02, 0xFD, 0x0300) := by decide

theorem test_jsr_wraps :
    after { machine 0x0200 [0x20, 0x00, 0x03] [] with sp := 0x00 } (fun t => (t.memByte 0x0100, t.memByte 0x01FF, t.sp)) =
      some (0x02, 0x02, 0xFE) := by decide

theorem test_rts :
    after { machine 0x0300 [0x60] [(0x01FE, 0x02), (0x01FF, 0x02)] with sp := 0xFD } (fun t => (t.pc, t.sp)) =
      some (0x0203, 0xFF) := by decide

theorem test_rti :
    after { machine 0x0300 [0x40] [(0x01FE, 0x34), (0x01FF, 0x12)] with sp := 0xFC, p := 0xA5 } (fun t => (t.p, t.pc, t.sp)) =
      some (0x20, 0x1234, 0xFF) := by decide

theorem test_rti_loads_b :
    after { machine 0x0300 [0x40] [(0x01FD, 0xFF)] with sp := 0xFC } (fun t => (t.p, t.pc, t.sp)) =
      some (0xFF, 0x0000, 0xFF) := by decide

theorem test_brk :
    after (machine 0x0200 [0x00] [(0xFFFF, 0xF8)]) (fun t => (t.memByte 0x01FF, t.memByte 0x01FE, t.memByte 0x01FD, t.p, t.sp, t.pc)) =
      some (0x02, 0x02, 0x30, 0x34, 0xFC, 0xF800) := by decide

theorem test_brk_not_masked :
    after { machine 0x0200 [0x00] [(0xFFFF, 0xF8)] with p := 0x24 } (fun t => (t.memByte 0x01FD, t.pc)) =
      some (0x34, 0xF800) := by decide

theorem test_pha :
    after { machine 0x0300 [0x48] [] with a := 0x55 } (fun t => (t.memByte 0x01FF, t.sp)) =
      some (0x55, 0xFE) := by decide

theorem test_pha_wraps :
    after { machine 0x0300 [0x48] [] with a := 0x55, sp := 0x00 } (fun t => (t.memByte 0x0100, t.sp)) =
      some (0x55, 0xFF) := by decide

theorem test_php :
    after { machine 0x0300 [0x08] [] with p := 0x21 } (fun t => (t.memByte 0x01FF, t.p, t.sp)) =
      some (0x31, 0x21, 0xFE) := by decide

theorem test_pla :
    after { machine 0x0300 [0x68] [(0x01FF, 0x80)] with sp := 0xFE } (fun t => (t.a, t.p, t.sp)) =
      some (0x80, 0xA0, 0xFF) := by decide

theorem test_pla_wraps :
    after { machine 0x0300 [0x68] [] with a := 0x12 } (fun t => (t.a, t.p, t.sp)) =
      some (0x00, 0x22, 0x00) := by decide

theorem test_plp_forces_bit5 :
    after { machine 0x0300 [0x28] [] with sp := 0xFE, p := 0xFF } (fun t => (t.p, t.sp)) =
      some (0x20, 0xFF) := by decide

theorem test_plp_loads_b :
    after { machine 0x0300 [0x28] [(0x01FF, 0xDF)] with sp := 0xFE } (fun t => (t.p)) =
      some (0xFF) := by decide

theorem test_clc :
    after { machine 0x0300 [0x18] [] with p := 0xFF } (fun t => (t.p)) =
      some (0xFE) := by decide

theorem test_cld :
    after { machine 0x0300 [0xD8] [] with p := 0x28 } (fun t => (t.p)) =
      some (0x20) := by decide

theorem test_cli :
    after { machine 0x0300 [0x58] [] with p := 0x24 } (fun t => (t.p)) =
      some (0x20) := by decide

theorem test_clv :
    after { machine 0x0300 [0xB8] [] with p := 0x60 } (fun t => (t.p)) =
      some (0x20) := by decide

theorem test_sec :
    after { machine 0x0300 [0x38] [] with p := 0x20 } (fun t => (t.p)) =
      some (0x21) := by decide

theorem test_sed :
    after { machine 0x0300 [0xF8] [] with p := 0x20 } (fun t => (t.p)) =
      some (0x28) := by decide

theorem test_sei :
    after { machine 0x0300 [0x78] [] with p := 0x20 } (fun t => (t.p)) =
      some (0x24) := by decide

theorem test_nop :
    after (machine 0x0200 [0xEA] []) (fun t => (t.pc, t.p)) =
      some (0x0201, 0x20) := by decide

theorem test_undef :
    after (machine 0xFFFF [0xFF] []) (fun t => (t.pc, t.cycles)) =
      some (0x0000, 6) := by decide

theorem test_undef_in_open_bus :
    after (machine 0x9200 [] []) (fun t => (t.pc, t.cycles)) =
      some (0x9201, 6) := by decide

theorem test_halt :
    after (machine 0x0300 [0x02] []) (fun t => (t.pc, t.halted)) =
      some (0x0301, true) := by decide

theorem test_debug_accepted :
    after (machine 0x0300 [0x12, 0x01] []) (fun t => (t.pc, t.p)) =
      some (0x0302, 0x20) := by decide

theorem test_debug_repeats :
    after (machine 0x0300 [0x12, 0x07] []) (fun t => (t.pc, t.p)) =
      some (0x0300, 0x20) := by decide

-- Signals: P1 to P10.

/-- The vectors of 95_test_vectors.md 2.8, with a NOP at each handler and at 0x0200. -/
def handlers (pc : Addr) : State :=
  machine pc [] [(0xFFFB, 0x10), (0xFFFD, 0x02), (0xFFFF, 0x20), (0x1000, 0xEA), (0x2000, 0xEA), (0x0200, 0xEA)]

theorem test_raise_irq :
    (raiseIrq (handlers 0x0400)).irqLatch = true ∧
    (raiseIrq { handlers 0x0400 with p := 0x24 }).irqLatch = false := by decide

theorem test_nmi_before_irq :
    after (raiseIrq (raiseNmi (handlers 0x0400))) (fun t =>
      ((t.nmiLatch, t.irqLatch, t.p, t.pc, t.sp), t.memByte 0x01FF, t.memByte 0x01FE, t.memByte 0x01FD)) =
      some ((false, true, 0x24, 0x1001, 0xFC), 0x04, 0x00, 0x20) := by decide

theorem test_irq_after_nmi_whatever_i :
    after { handlers 0x1001 with irqLatch := true, p := 0x24, sp := 0xFC } (fun t =>
      ((t.irqLatch, t.p, t.pc, t.sp), t.memByte 0x01FC, t.memByte 0x01FB, t.memByte 0x01FA)) =
      some ((false, 0x24, 0x2001, 0xF9), 0x10, 0x01, 0x24) := by decide

theorem test_nmi_pushes_b_as_it_stands :
    after (raiseNmi { handlers 0x0500 with p := 0x34 }) (fun t => (t.memByte 0x01FD, t.p)) =
      some (0x34, 0x34) := by decide

theorem test_irq_clears_b :
    after { handlers 0x0500 with p := 0x30, irqLatch := true } (fun t => (t.memByte 0x01FD, t.p)) =
      some (0x20, 0x24) := by decide

theorem test_reset_discards_the_rest :
    after (raiseReset { handlers 0x0500 with a := 0x77, sp := 0x33, nmiLatch := true, irqLatch := true })
      (fun t => ((t.resetLatch, t.nmiLatch, t.irqLatch), t.a, t.sp, t.p, t.pc, t.mem == (handlers 0x0500).mem)) =
      some ((false, false, false), 0x00, 0x00, 0x20, 0x0201, true) := by decide

theorem test_reset_through_open_bus :
    (serviceReset { handlers 0x0500 with cfg := { Config.standard with regionTable := [] } }).pc = 0xFFFF := by
  decide

theorem test_halted_takes_no_step :
    after { handlers 0x0500 with halted := true, nmiLatch := true } (fun t => (t.pc, t.nmiLatch)) =
      some (0x0500, true) ∧
    after (wake { handlers 0x0500 with halted := true, nmiLatch := true }) (fun t => (t.pc, t.nmiLatch)) =
      some (0x1001, false) ∧
    after (wake (stop { handlers 0x0500 with halted := true, nmiLatch := true }))
      (fun t => (t.pc, t.nmiLatch)) = some (0x0500, true) := by decide

-- The bus: X1 to X9.

/-- The configuration of 95_test_vectors.md 2.9. -/
def busConfig : Config :=
  { Config.standard with regionTable := [⟨.ram, 0x0000, 0x80⟩, ⟨.rom, 0x2000, 1⟩, ⟨.acia, 0xF000, 1⟩] }

def bus : State := State.powerOn busConfig [(0x2000, 0xEE), (0x2100, 0x5A), (0x7FFF, 0x34)]

theorem test_bus_reads :
    bus.traceRead 0x2000 = 0xEE ∧ bus.traceRead 0x2100 = 0x5A ∧ bus.traceRead 0x8123 = 0x81 ∧
    bus.traceRead 0xF002 = 0x02 ∧ bus.traceRead 0xF0FE = 0x02 ∧ bus.traceRead 0xF0FF = 0x00 ∧
    (memRead2 .service 0x7FFF bus).1 = 0x8034 := by decide

theorem test_bus_writes_discarded :
    (memWrite 0x2000 0x11 bus).mem = bus.mem ∧ (memWrite 0x8123 0x55 bus).mem = bus.mem := by decide

-- The ACIA: A1 to A17.

/-- The flags of the vectors' third column. -/
def flagsOf (d : Acia) : Bool × Bool × Bool × Bool := (d.tdre, d.rdrf, d.txPending, d.txBusy)

/-- The ACIA at power-on with both peers attached. -/
def aciaOn : Acia := { Acia.powerOn Config.standard with txPeer := true, rxPeer := true }

theorem test_acia_power_on : flagsOf aciaOn = (true, false, false, false) ∧ aciaOn.status = 0x02 := by decide

theorem test_acia_transmit :
    let a2 := aciaOn.writeData 0x41
    let a3 := workerStep .txStart (a2, [])
    let a4 := a3.1.writeData 0x42
    let a5 := workerStep .txFinish (a4, [])
    let a6 := workerStep .txFinish (workerStep .txStart a5)
    flagsOf a2 = (false, false, true, false) ∧ a2.status = 0x00 ∧
    flagsOf a3.1 = (false, false, false, true) ∧ flagsOf a4 = (false, false, true, true) ∧
    flagsOf a5.1 = (false, false, true, false) ∧ a5.2 = [.peerWrite 0x41] ∧
    flagsOf a6.1 = (true, false, false, false) ∧ a6.2 = [.peerWrite 0x42, .peerWrite 0x41] := by decide

theorem test_acia_receive :
    let a7 := (workerStep (.rxPoll (some 0x5A)) (aciaOn, [])).1
    a7.status = 0x03 ∧ (workerStep (.rxPoll (some 0x66)) (a7, [])).1 = a7 ∧
    a7.peek 1 = 0x5A ∧ (a7.afterRead 1 false).status = 0x02 ∧ (a7.afterRead 1 false).peek 1 = 0x5A ∧
    (workerStep (.rxPoll none) (a7.afterRead 1 false, [])).1 = a7.afterRead 1 false ∧
    a7.afterRead 0 false = a7 ∧ a7.afterRead 1 true = a7 := by decide

theorem test_acia_control :
    aciaOn.afterWrite 0 0x13 = { aciaOn with ctrl := 0x13 } ∧
    flagsOf ((aciaOn.afterWrite 1 0x41).afterWrite 0 0x03) = (true, false, false, false) ∧
    (let sending := { aciaOn with tdre := false, txBusy := true, txShift := 0x77 }
     flagsOf (sending.afterWrite 0 0x03) = (true, false, false, true) ∧
     (workerStep .txFinish (sending.afterWrite 0 0x03, [])).2 = [.peerWrite 0x77]) ∧
    (workerStep .txFinish (workerStep .txStart ({ aciaOn with txPeer := false, txPending := true }, []))).2 =
      [] := by decide

/-- A machine whose reset vector the ACIA answers, a received byte waiting (A16, 10_state.md R43). -/
def vectorAcia : State :=
  let s := State.powerOn { busConfig with regionTable := [⟨.acia, 0xFF00, 1⟩] } []
  { s with acia := { s.acia with rdrf := true, rdr := 0x12 } }

theorem test_reset_service_spares_acia :
    aciaAfterRead .reset 0xFFFD vectorAcia = vectorAcia.acia ∧
    (aciaAfterRead .service 0xFFFB vectorAcia).rdrf = false ∧ vectorAcia.traceRead 0xFFFD = 0x12 := by decide

theorem test_acia_timing :
    charSeconds { Config.standard with aciaClockHz := 4800 } 0x15 = 1 / 30 ∧
    effectiveBaud { Config.standard with aciaClockHz := 4800 } 0x15 = 300 ∧
    charSeconds { Config.standard with aciaClockHz := 4800 } 0x00 = 11 / 4800 := by decide +kernel

-- The tape codec: K4 to K18.

theorem test_derived_quantities :
    markSamples Config.standard = 20 ∧ spaceSamples Config.standard = 40 ∧
    leadBits Config.standard (1 / 2) = 150 ∧ frame 0x41 =
      [false, true, false, false, false, false, false, true, false, true, true] := by decide +kernel

theorem test_sample_bytes :
    frameBytes { Config.standard with bitDepth := .sixteen, channels := 2 } (-39) =
      [0xFF, 0xD9, 0xFF, 0xD9] := by decide

/-- A session that expects 20 and 40 samples. -/
def session (hi lo : Rat) : Session := { State.reset.tape with countHi := hi, countLo := lo }

theorem test_classification :
    [20, 40, 30, 31, 59, 60, 100, 5].map (classify (session 20 40)) =
      [.mark, .space, .mark, .space, .space, .mark, .mark, .mark] := by decide +kernel

theorem test_adaptive :
    (adapt true (session 20 40) 22).countHi = 41 / 2 ∧ (adapt true (session 20 40) 22).countLo = 41 ∧
    (adapt true (session (41 / 2) 41) 42).countLo = 165 / 4 ∧
    (adapt true (session (41 / 2) 41) 42).countHi = 165 / 8 ∧
    (adapt true (session 20 40) 60).countHi = 20 ∧ (adapt false (session 20 40) 22).countHi = 20 := by
  decide +kernel

/-- A small codec configuration: 4 samples in a mark cycle, 2 cycles in a mark bit, one lead bit. -/
def smallCodec : Config :=
  { Config.standard with
    sampleRate := 8, markFreq := 2, markCycles := 2, leadInSeconds := 1, leadOutSeconds := 1 }

/-- A cycle with one rising crossing at its start. -/
def square (len : Nat) : List Int := List.replicate (len / 2) 1 ++ List.replicate (len - len / 2) (-1)

theorem test_round_trip :
    decodeTape smallCodec (encodeWith smallCodec square [0x41, 0x00, 0xFF]) = [0x41, 0x00, 0xFF] := by
  decide +kernel

theorem test_round_trip_adaptive :
    decodeTape { smallCodec with adaptive := true }
      (encodeWith smallCodec square [0x41]) = [0x41] := by decide +kernel

/-- The lengths of the first cycles that a session measures. -/
def cycles (c : Config) (xs : List Int) : Option Nat × Option Nat :=
  let r := nextCycle c { startSession c [] with input := xs }
  (r.2.lastBoundary, r.1)

theorem test_peaks :
    let k1 : List Int :=
      [0, 39, 75, 103, 121, 127, 121, 103, 75, 39, 0, -39, -75, -103, -121, -127, -121, -103, -75, -39]
    cycles { Config.standard with phase := .deg90 } (k1 ++ k1 ++ k1) = (some 45, some 20) ∧
    cycles { Config.standard with phase := .deg90 } [-5, 100, 120, 120, 90, -5, 120, 90] =
      (some 6, some 3) ∧
    cycles { Config.standard with phase := .deg180 } ((k1 ++ k1 ++ k1).map fun v => -v) =
      (some 30, some 20) := by decide

-- How a program comes to run from reset (log 3, log 16).

theorem test_first_step_from_reset :
    after (State.reset.withFetchWord 16 0x80A9) (fun t => (t.a, t.pc, t.resetLatch, t.cycles)) =
      some (0x80, 0x0002, false, 9) := by decide

-- Witnesses: for each statement with hypotheses, a state and operands that meet all of them, clause by clause at the
-- ends of each clause's range.

/-- A quiet machine that is not the one of `State.reset`, with a store to RAM as its next instruction. -/
def runner : State := { machine 0x0300 [0x8D, 0x00, 0x02] [] with a := 0x11 }

theorem runner_inv : runner.Inv where
  memWf := by decide
  memMapped := by decide
  bit5 := by decide
  acia := by decide
  tapeRatio := by decide +kernel

theorem witness_step_runs : State.reset.idle = false ∧ runner.idle = false := by decide

theorem witness_well_formed :
    Config.standard.simulatorOpcodesValid ∧
    (Instr.lda (.mem (.indy 0xFF))).wellFormed Config.standard = true ∧
    (Instr.ror .acc).wellFormed Config.standard = true ∧
    (Instr.jmp (.ind 0xFFFF)).wellFormed Config.standard = true ∧
    (Instr.undef 0xFF).wellFormed Config.standard = true ∧
    Instr.halt.wellFormed Config.standard = true ∧
    (Instr.debug 0xFF).wellFormed Config.standard = true := by decide

theorem witness_decoding_order :
    decodeOp Config.standard 0x02 0 0 = .halt ∧ decodeOp Config.standard 0x12 0xFF 0 = .debug 0xFF ∧
    (0x03 ∈ undefinedOpcodes ∧ decodeOp Config.standard 0x03 0 0 = .undef 0x03) ∧
    (0xFF ∈ undefinedOpcodes ∧ decodeOp Config.standard 0xFF 0 0 = .undef 0xFF) ∧
    ((0x00 : Byte) ∉ undefinedOpcodes ∧ decodeOp Config.standard 0x00 0 0 = .brk) ∧
    ((0xFE : Byte) ∉ undefinedOpcodes ∧ decodeOp Config.standard 0xFE 0x00 0x03 = .inc (.absx 0x0300)) := by
  decide

theorem witness_decimal_ends :
    (addDecimal (packBcd 0) (packBcd 0) false).r = packBcd 0 ∧
    (addDecimal (packBcd 99) (packBcd 99) true).r = packBcd 99 ∧
    (subDecimal (packBcd 0) (packBcd 99) false).r = packBcd 0 ∧
    (subDecimal (packBcd 99) (packBcd 0) true).r = packBcd 99 ∧
    (addDecimal 0xFF 0xFF true).r = 0x31 := by decide

theorem witness_kinds :
    [0x0000, 0x7FFF, 0x8000, 0x9FFF].map runner.kindAt = [some .ram, some .ram, none, none] ∧
    [0xA000, 0xBFFF, 0xD000, 0xD3FF].map runner.kindAt =
      [some .rom, some .rom, some .device, some .device] ∧
    [0xF000, 0xF0FF, 0xF800, 0xFFFF].map runner.kindAt = [some .acia, some .acia, some .rom, some .rom] ∧
    runner.offsetAt 0xF000 = 0 ∧ runner.offsetAt 0xF0FF = 255 ∧ runner.offsetAt 0xD3FF = 1023 := by decide

theorem witness_stray_read :
    ∃ s : State, s.cfg.quirkStrayRead = true ∧ s.pc = s.cfg.quirkStrayReadPC ∧ s.kindAt 0xF001 = some .acia :=
  ⟨{ runner with cfg := { Config.standard with quirkStrayRead := true, quirkStrayReadPC := 0x0300 } },
    by decide, by decide, by decide⟩

theorem witness_stack_page :
    runner.kindAt 0x0100 = some .ram ∧ { runner with sp := 0x00 }.kindAt 0x0100 = some .ram ∧
    State.reset.kindAt 0x0100 = some .ram := by decide

theorem witness_later_region :
    slotOf [⟨.ram, 0x0000, 0x80⟩, ⟨.rom, 0x2000, 2⟩] 0x1F = some ⟨.ram, 0x0000, 0x80⟩ ∧
    slotOf [⟨.ram, 0x0000, 0x80⟩, ⟨.rom, 0x2000, 2⟩] 0x20 = some ⟨.rom, 0x2000, 2⟩ ∧
    slotOf [⟨.ram, 0x0000, 0x80⟩, ⟨.rom, 0x2000, 2⟩] 0x21 = some ⟨.rom, 0x2000, 2⟩ ∧
    slotOf [⟨.ram, 0x0000, 0x80⟩, ⟨.rom, 0x2000, 2⟩] 0x22 = some ⟨.ram, 0x0000, 0x80⟩ ∧
    runner.owner 0xF000 = some ⟨.acia, 0xF000, 1⟩ ∧ runner.owner 0xF0FF = some ⟨.acia, 0xF000, 1⟩ := by
  decide

theorem witness_idle :
    (runner.stopRequested = false ∧ runner.halted = false) ∧ { runner with halted := true }.idle = true ∧
    (stop runner).idle = true := by decide

theorem witness_signals :
    (State.reset.resetLatch = true) ∧
    (let s := raiseIrq (raiseNmi runner)
     s.resetLatch = false ∧ s.nmiLatch = true ∧ s.irqLatch = true) ∧
    (let s := raiseIrq runner
     s.resetLatch = false ∧ s.nmiLatch = false ∧ s.irqLatch = true) ∧
    (runner.resetLatch = false ∧ runner.nmiLatch = false ∧ runner.irqLatch = false) := by decide

/-- No worker step is enabled on a quiet ACIA with no receive peer. -/
theorem workerRun_of_quiet (d : Acia) (es : List Event) (hp : d.txPending = false) (hb : d.txBusy = false)
    (hr : d.rxPeer = false) : ∀ ms, workerRun ms (d, es) = (d, es)
  | [] => rfl
  | m :: ms => by
    have hm : workerStep m (d, es) = (d, es) := by cases m <;> simp [workerStep, moveEnabled, hp, hb, hr]
    rw [workerRun, hm]
    exact workerRun_of_quiet d es hp hb hr ms

theorem witness_master_reset :
    [0xF000, 0xF0FE].map runner.kindAt = [some .acia, some .acia] ∧
    [0xF000, 0xF0FE].map (fun a => runner.offsetAt a % 2) = [0, 0] ∧
    (gap runner).acia.tdre = true ∧ (gap runner).acia.rdrf = false := by
  have h : (gap runner).acia = runner.acia :=
    congrArg Prod.fst (workerRun_of_quiet runner.acia runner.events (by decide) (by decide) (by decide) _)
  rw [h]
  decide

theorem witness_step_keeps_inv : ∃ t, runner.Inv ∧ step runner = .next t ∧ t.memByte 0x0200 = 0x11 :=
  ⟨_, runner_inv, rfl, by decide⟩

theorem witness_run :
    ∃ t, runner.Inv ∧ Reaches runner t ∧ t.memByte 0x0200 = 0x11 ∧ t.nmiLatch = true ∧
      runner.kindAt 0xA000 = some .rom ∧ runner.kindAt 0xFFFF = some .rom :=
  ⟨_, runner_inv, .move (.host .raiseNmi) (.move .cpu .refl rfl) rfl, by decide, by decide, by decide, by decide⟩

/-- What one instruction leaves in a view of the state. -/
def did {α : Type} (i : Instr) (s : State) (view : State → α) : Option α :=
  match exec i s with
  | .next t => some (view t)
  | .fault _ => none
  | .refused _ => none

theorem witness_writers_of_registers :
    did (.lda (.imm 0x01)) runner (fun t => t.a != runner.a) = some true ∧
    did (.rol .acc) runner (fun t => t.a != runner.a) = some true ∧
    did .tax runner (fun t => t.x != runner.x) = some true ∧
    did .dey runner (fun t => t.y != runner.y) = some true ∧
    did .pha runner (fun t => (t.sp != runner.sp, t.mem != runner.mem)) = some (true, true) ∧
    did .rti runner (fun t => t.sp != runner.sp) = some true ∧
    did (.inc (.zp 0x10)) runner (fun t => t.mem != runner.mem) = some true := by decide

theorem witness_writers_of_flags :
    did .clv { runner with p := 0x60 } (fun t => t.flag .v) = some false ∧
    did .brk runner (fun t => (t.flag .b, t.flag .i)) = some (true, true) ∧
    did .sed runner (fun t => (t.flag .d, flagX t.p)) = some (true, true) ∧
    did (.cmp (.imm 0x00)) runner (fun t => t.flag .c) = some true ∧
    did .halt runner (fun t => t.halted) = some true := by decide

/-- A machine with RAM under a ROM that is registered later, and one ACIA. -/
def small : Config :=
  { Config.standard with regionTable := [⟨.ram, 0x0000, 2⟩, ⟨.rom, 0xFF00, 1⟩, ⟨.rom, 0x0100, 1⟩, ⟨.acia, 0xF000, 1⟩] }

/-- A ROM image with the given first and last byte. -/
def image (first last : Byte) : List Byte := first :: List.replicate 254 0 ++ [last]

/-- The fault of a construction, if it has one. -/
def faultOf (c : Config) (contents : List Contents) : Option Fault :=
  match powerOn c contents with
  | .ok _ => none
  | .error f => some f

theorem witness_power_on :
    faultOf small [some [0xAA], some (image 0x11 0x22), some (image 0x33 0x44), none] = none ∧
    (match powerOn small [some [0xAA], some (image 0x11 0x22), some (image 0x33 0x44), none] with
     | .ok s => [0x0000, 0x00FF, 0x0100, 0x01FF, 0xFF00, 0xFFFF].map s.memByte
     | .error _ => []) = [0xAA, 0x00, 0x33, 0x44, 0x11, 0x22] := by decide +kernel

theorem witness_configuration_faults :
    faultOf small [] = some .romImageMissing ∧
    faultOf small [none, some [0x00]] = some .romImageLength ∧
    faultOf { small with regionTable := [⟨.acia, 0xF001, 1⟩] } [] = some .regionUnaligned ∧
    faultOf { small with regionTable := [⟨.acia, 0xF000, 0⟩] } [] = some .regionSpan ∧
    faultOf { small with regionTable := [⟨.acia, 0xFF00, 2⟩] } [] = some .regionSpan ∧
    faultOf { small with regionTable := [⟨.acia, 0xFF00, 1⟩] } [] = none ∧
    faultOf { small with regionTable := [⟨.ram, 0x0000, 0x80⟩] } [] = some .aciaCount := by decide +kernel

theorem witness_tones :
    (0 : Rat) < (session 20 40).countHi ∧ (session 20 40).countLo = 2 * (session 20 40).countHi ∧
    [30, 31, 59, 60].map (classify (session 20 40)) = [.mark, .space, .space, .mark] := by decide +kernel

theorem witness_round_trip_peak :
    1 ≤ roundHalfAway (amax Config.standard.bitDepth *
      Real.sin (2 * Real.pi / (spaceSamples Config.standard : ℕ))) := by
  have hs : spaceSamples Config.standard = 40 := by decide +kernel
  have ha : amax Config.standard.bitDepth = 127 := rfl
  have hpi := Real.pi_pos
  have hsin : 1 / 10 ≤ Real.sin (2 * Real.pi / 40) := by
    have h := Real.mul_le_sin (x := 2 * Real.pi / 40) (by positivity) (by linarith)
    have e : 2 / Real.pi * (2 * Real.pi / 40) = 1 / 10 := by field_simp; norm_num
    rwa [e] at h
  have hpos : (0 : ℝ) ≤ 127 * Real.sin (2 * Real.pi / 40) := by linarith
  rw [hs, ha]
  push_cast
  rw [roundHalfAway, if_pos hpos, Int.le_floor]
  push_cast
  linarith

theorem witness_round_trip :
    Config.standard.codecValid ∧ Config.standard.phase = .deg0 ∧
    Config.standard.inBitDepth = Config.standard.bitDepth ∧ Config.standard.inChannels = Config.standard.channels ∧
    1 ≤ leadBits Config.standard Config.standard.leadInSeconds ∧
    1 ≤ leadBits Config.standard Config.standard.leadOutSeconds ∧ Config.standard.waveform = .sine ∧
    4 ≤ markSamples Config.standard ∧
    1 ≤ roundHalfAway (amax Config.standard.bitDepth *
      Real.sin (2 * Real.pi / (spaceSamples Config.standard : ℕ))) :=
  ⟨by decide +kernel, by decide, by decide, by decide, by decide +kernel, by decide +kernel, by decide,
    by decide +kernel, witness_round_trip_peak⟩

-- The hardware waveform: the example of R421, the default of R405 with hwTau = 1/10 at 20 and 40 samples.

/-- The standard configuration with the hardware waveform. -/
def hardware (adaptive : Bool) : Config := { Config.standard with waveform := .hardware, adaptive := adaptive }

theorem test_default_lengths : ownedLengths 20 2 3 = [20, 21] ∧ ownedLengths 40 3 2 = [40, 39] := by decide

/-- The example of R421: the default at 20 and 40 samples meets the condition, tracking on or off. -/
theorem witness_hardware_condition (adaptive : Bool) :
    RoundTripCondition (hardware adaptive) (toneCycle (hardware adaptive) (defaultHwWave (1 / 10))) := by
  have hm : markSamples (hardware adaptive) = 20 := by cases adaptive <;> decide +kernel
  have hs : spaceSamples (hardware adaptive) = 40 := by cases adaptive <;> decide +kernel
  have hc : toneCycle (hardware adaptive) (defaultHwWave (1 / 10)) = defaultCycle := rfl
  have hf : ((hardware adaptive).sampleRate : Rat) / (hardware adaptive).markFreq = 20 := by
    cases adaptive <;> decide +kernel
  have hlast : ∀ before ∈ [20, 40], lastSample (defaultCycle before) < 0 := by
    intro before hb
    exact lastSample_defaultCycle_neg before (by simpa using hb)
  refine ⟨2, 3, ?_, ?_, fun q hq => ?_⟩
  · intro before hb
    rw [hm, hs] at hb
    rw [hc, hm]
    exact (defaultCycle_crossings _ (hlast before hb)).1
  · intro before hb
    rw [hm, hs] at hb
    rw [hc, hs]
    exact (defaultCycle_crossings _ (hlast before hb)).2
  · rw [hm, hs] at hq ⊢
    have hlo : 39 / 2 ≤ q := hq.le (by rw [countTargets, hf]; cases adaptive <;> norm_num [ownedLengths, hardware])
    have hhi : q ≤ 21 := hq.ge (by rw [countTargets, hf]; cases adaptive <;> norm_num [ownedLengths, hardware])
    constructor
    · intro n hn
      simp only [ownedLengths, List.mem_cons, List.not_mem_nil, or_false] at hn
      left
      rcases hn with rfl | rfl <;> norm_num <;> linarith
    · intro n hn
      simp only [ownedLengths, List.mem_cons, List.not_mem_nil, or_false] at hn
      rcases hn with rfl | rfl <;> constructor <;> norm_num <;> linarith

theorem witness_hardware_round_trip :
    (hardware true).codecValid ∧ (hardware true).phase = .deg0 ∧
    (hardware true).inBitDepth = (hardware true).bitDepth ∧ (hardware true).inChannels = (hardware true).channels ∧
    1 ≤ leadBits (hardware true) (hardware true).leadInSeconds ∧
    1 ≤ leadBits (hardware true) (hardware true).leadOutSeconds ∧ (hardware true).waveform = .hardware ∧
    HardwareShape (defaultHwWave (1 / 10)) ∧
    RoundTripCondition (hardware true) (toneCycle (hardware true) (defaultHwWave (1 / 10))) :=
  ⟨by decide +kernel, by decide, by decide, by decide, by decide +kernel, by decide +kernel, by decide,
    defaultHwWave_shape, witness_hardware_condition true⟩

/-- The default's shape with the tones' boundaries apart, on the small codec. -/
def lagging (len : Nat) : List Int :=
  List.replicate (len / 8) (-1) ++ List.replicate (len / 2) 1 ++ List.replicate (len - len / 8 - len / 2) (-1)

theorem test_round_trip_lagging :
    crossings (-1) 0 (lagging 4) = [0] ∧ crossings (-1) 0 (lagging 8) = [1] ∧
    decodeTape smallCodec (encodeWith smallCodec lagging [0x41, 0x00, 0xFF]) = [0x41, 0x00, 0xFF] := by
  decide +kernel

end Sys2Proof.Tests
end

section
/-!
SUPPORT. What the machine can do to its memory, its ACIA and bit 5 of P: gaps, reads, writes and updates of registers.
Every instruction and every step is a run of these four, so what each of the four keeps, every step keeps.
-/

namespace Sys2Proof.Machine

/-- Nothing behind the bus changes, nor the decode session, and bit 5 of P once set stays set (10_state.md R27). -/
structure RegistersOnly (s t : State) : Prop where
  mem : t.mem = s.mem
  acia : t.acia = s.acia
  tape : t.tape = s.tape
  cfg : t.cfg = s.cfg
  bit5 : flagX s.p = true → flagX t.p = true

/-- One thing the machine does: let the worker act, read, write, or change registers (20_memory.md R64 to R66, R78). -/
inductive BusStep : State → State → Prop
  | gap (s : State) : BusStep s (gap s)
  | read (w : Accessor) (a : Addr) (s : State) : BusStep s (memRead w a s).2
  | write (a : Addr) (v : Byte) (s : State) : BusStep s (memWrite a v s)
  | registers {s t : State} : RegistersOnly s t → BusStep s t

/-- Any number of these, one after another. -/
def BusRun (s t : State) : Prop := Relation.ReflTransGen BusStep s t

-- The primitives.

theorem BusRun.refl (s : State) : BusRun s s := Relation.ReflTransGen.refl

theorem BusRun.trans {s t u : State} (h : BusRun s t) (k : BusRun t u) : BusRun s u :=
  Relation.ReflTransGen.trans h k

theorem BusStep.run {s t : State} (h : BusStep s t) : BusRun s t := Relation.ReflTransGen.single h

/-- A property that each of the four keeps holds at the end of a run. -/
theorem BusRun.keeps {P : State → Prop} (hP : ∀ s t, BusStep s t → P s → P t) {s t : State}
    (h : BusRun s t) (hs : P s) : P t := by
  induction h with
  | refl => exact hs
  | tail _ k ih => exact hP _ _ k ih

section
variable {s t : State} (h : BusRun s t)
include h

theorem BusRun.gap : BusRun s (gap t) := h.trans (BusStep.gap t).run

theorem BusRun.read (w : Accessor) (a : Addr) : BusRun s (memRead w a t).2 := h.trans (BusStep.read w a t).run

theorem BusRun.write (a : Addr) (v : Byte) : BusRun s (memWrite a v t) := h.trans (BusStep.write a v t).run

theorem BusRun.registers {u : State} (k : RegistersOnly t u) : BusRun s u := h.trans (BusStep.registers k).run

/-- An update that touches no flag. -/
theorem BusRun.update {u : State} (mem : u.mem = t.mem) (acia : u.acia = t.acia) (tape : u.tape = t.tape)
    (cfg : u.cfg = t.cfg) (p : u.p = t.p) : BusRun s u :=
  h.registers ⟨mem, acia, tape, cfg, by simp [p]⟩

theorem BusRun.setPc (w : Addr) : BusRun s (t.setPc w) := h.update rfl rfl rfl rfl rfl

theorem BusRun.addCycles (n : Nat) : BusRun s (t.addCycles n) := h.update rfl rfl rfl rfl rfl

-- Updates of P.

theorem BusRun.applyFlags (o : FlagOut) : BusRun s (t.applyFlags o) :=
  h.registers ⟨rfl, rfl, rfl, rfl, by simp [flagX_applyFlags]⟩

theorem BusRun.setFlag (f : Flag) (b : Bool) : BusRun s (t.setFlag f b) :=
  h.registers ⟨rfl, rfl, rfl, rfl, by simp [flagX_setFlag]⟩

theorem BusRun.setFlag? (f : Flag) (b : Option Bool) : BusRun s (t.setP (Machine.setFlag? t.p f b)) :=
  h.registers ⟨rfl, rfl, rfl, rfl, by simp [flagX_setFlag?]⟩

theorem BusRun.writeP (v : Byte) : BusRun s (t.writeP v) :=
  h.registers ⟨rfl, rfl, rfl, rfl, fun _ => flagX_or_20 v⟩

-- The end of an instruction.

theorem BusRun.jumpTo (w : Addr) (cyc : Nat) : BusRun s (jumpTo w cyc t) := (h.setPc w).addCycles cyc

theorem BusRun.advance (len cyc : Nat) : BusRun s (advance len cyc t) := h.jumpTo _ cyc

-- The memory primitives of 00_scope.md R11 and 41_addressing.md R184 to R186.

theorem BusRun.read2 (w : Accessor) (a : Addr) : BusRun s (memRead2 w a t).2 := (h.read w a).read w (a + 1)

theorem BusRun.readWordZP (z : Byte) : BusRun s (readWordZP z t).2 := (h.read _ _).read _ _

theorem BusRun.push (v : Byte) : BusRun s (push v t) := (h.write (stackAddr t.sp) v).update rfl rfl rfl rfl rfl

theorem BusRun.pull : BusRun s (pull t).2 :=
  (h.update (u := t.setSp (t.sp + 1)) rfl rfl rfl rfl rfl).read .instruction (stackAddr (t.sp + 1))

theorem BusRun.resolve (m : Ea) : BusRun s (resolve m t).2 := by
  cases m with
  | indx z => exact h.readWordZP (z + t.x)
  | indy z => exact h.readWordZP z
  | zp | zpx | zpy | abs | absx | absy => exact h

theorem BusRun.load (o : Src) : BusRun s (load o t).2 := by
  cases o with
  | imm b => exact h
  | mem m => exact (h.resolve m).read _ _

theorem BusRun.store (m : Ea) (v : Byte) : BusRun s (store m v t) := (h.resolve m).write _ v

theorem BusRun.modify (f : Byte → AluOut) (d : Place) : BusRun s (modify f d t).2 := by
  cases d with
  | acc => exact h.update rfl rfl rfl rfl rfl
  | mem m => exact ((h.resolve m).read _ _).write _ _

-- Interrupts.

theorem BusRun.saveContext (ret : Addr) (brk : Option Bool) : BusRun s (saveContext ret brk t) :=
  (((h.push (highByte ret)).push (lowByte ret)).setFlag? .b brk |>.push _).setFlag .i true

theorem BusRun.enterInterrupt (w : Accessor) (ret : Addr) (brk : Option Bool) (vec : Addr) :
    BusRun s (enterInterrupt w ret brk vec t) :=
  ((h.saveContext ret brk).read2 w vec).setPc _

theorem BusRun.returnFromInterrupt : BusRun s (returnFromInterrupt t) :=
  (h.pull.writeP _).pull.pull.setPc _

theorem BusRun.serviceReset : BusRun s (serviceReset t) := by
  have cleared : BusRun s (((((t.setLatches false false false).setA t.cfg.resetA).setX t.cfg.resetX).setY
      t.cfg.resetY).setSp t.cfg.resetS) := h.update rfl rfl rfl rfl rfl
  exact (((cleared.writeP t.cfg.resetP).read2 .reset resetVector).setPc _).addCycles serviceCycles

theorem BusRun.serviceNmi : BusRun s (serviceNmi t) := by
  have cleared : BusRun s (t.setLatches t.resetLatch false t.irqLatch) := h.update rfl rfl rfl rfl rfl
  exact (cleared.enterInterrupt .service t.pc none nmiVector).addCycles serviceCycles

theorem BusRun.serviceIrq : BusRun s (serviceIrq t) := by
  have cleared : BusRun s (t.setLatches t.resetLatch t.nmiLatch false) := h.update rfl rfl rfl rfl rfl
  exact (cleared.enterInterrupt .service t.pc (some false) irqVector).addCycles serviceCycles

theorem BusRun.serviceSignals : BusRun s (serviceSignals t) := by
  unfold Machine.serviceSignals
  split_ifs
  · exact h.serviceReset
  · exact h.serviceNmi
  · exact h.serviceIrq
  · exact h

theorem BusRun.noteTrace : BusRun s (noteTrace t) := h.update rfl rfl rfl rfl rfl

theorem BusRun.fetch : BusRun s (fetch t).2 := by
  rcases fetch_cases t with ⟨-, hf⟩ | ⟨-, hf⟩ | ⟨-, hf⟩ <;> rw [hf]
  · exact (h.read _ _).noteTrace
  · exact ((h.read _ _).read _ _).noteTrace
  · exact (((h.read _ _).read _ _).read _ _).noteTrace

end

-- The shared meanings of the instructions, each from the state it starts in.

section
variable {s t : State}

theorem loadInto_busRun {set : State → Byte → State} (hset : ∀ u v, BusRun u (set u v)) {o : Src}
    (h : loadInto set o s = .next t) : BusRun s t := by
  cases h
  exact ((((BusRun.refl s).load o).trans (hset _ _)).applyFlags _).advance _ _

theorem storeFrom_busRun {v : Byte} {m : Ea} (h : storeFrom v m s = .next t) : BusRun s t := by
  cases h
  exact ((BusRun.refl s).store m v).advance _ _

theorem transfer_busRun {set : State → Byte → State} (hset : ∀ u v, BusRun u (set u v)) {v : Byte}
    (h : transfer set v s = .next t) : BusRun s t := by
  cases h
  exact ((hset s v).applyFlags _).advance _ _

theorem accumulate_busRun {f : Byte → AluOut} {o : Src} (h : accumulate f o s = .next t) : BusRun s t := by
  cases h
  have set := ((BusRun.refl s).load o).update (u := (load o s).2.setA (f (load o s).1).r) rfl rfl rfl rfl rfl
  exact (set.applyFlags _).advance _ _

theorem compare_busRun {r : Byte} {o : Src} (h : compare r o s = .next t) : BusRun s t := by
  cases h
  exact (((BusRun.refl s).load o).applyFlags _).advance _ _

theorem modifyPlace_busRun {f : Byte → AluOut} {d : Place} (h : modifyPlace f d s = .next t) : BusRun s t := by
  cases h
  exact (((BusRun.refl s).modify f d).applyFlags _).advance _ _

theorem stepRegister_busRun {set : State → Byte → State} (hset : ∀ u v, BusRun u (set u v)) {out : AluOut}
    (h : stepRegister set out s = .next t) : BusRun s t := by
  cases h
  exact ((hset s _).applyFlags _).advance _ _

theorem branch_busRun {taken : Bool} {off : Byte} (h : branch taken off s = .next t) : BusRun s t := by
  cases h
  cases taken
  · exact (BusRun.refl s).advance _ _
  · exact (BusRun.refl s).jumpTo _ _

theorem execJmp_busRun {g : Target} (h : execJmp g s = .next t) : BusRun s t := by
  cases g <;> cases h
  · exact (BusRun.refl s).jumpTo _ _
  · exact ((BusRun.refl s).read2 _ _).jumpTo _ _

theorem execDebug_busRun {sel : Byte} (h : execDebug sel s = .next t) : BusRun s t := by
  cases h
  split_ifs
  · exact ((BusRun.refl s).update (u := s.emit (.debugCallback sel)) rfl rfl rfl rfl rfl).advance _ _
  · exact (BusRun.refl s).jumpTo _ _

theorem setA_busRun (u : State) (v : Byte) : BusRun u (u.setA v) := (BusRun.refl u).update rfl rfl rfl rfl rfl
theorem setX_busRun (u : State) (v : Byte) : BusRun u (u.setX v) := (BusRun.refl u).update rfl rfl rfl rfl rfl
theorem setY_busRun (u : State) (v : Byte) : BusRun u (u.setY v) := (BusRun.refl u).update rfl rfl rfl rfl rfl

/-- Every instruction is a run of gaps, reads, writes and updates of registers. -/
theorem exec_busRun {i : Instr} (h : exec i s = .next t) : BusRun s t := by
  have r := BusRun.refl s
  cases i with
  | lda => exact loadInto_busRun setA_busRun h
  | ldx => exact loadInto_busRun setX_busRun h
  | ldy => exact loadInto_busRun setY_busRun h
  | sta | stx | sty => exact storeFrom_busRun h
  | tax | tsx => exact transfer_busRun setX_busRun h
  | tay => exact transfer_busRun setY_busRun h
  | txa | tya => exact transfer_busRun setA_busRun h
  | adc | sbc =>
    simp only [exec, execAdc, execSbc] at h
    exact accumulate_busRun h
  | and | ora | eor => exact accumulate_busRun h
  | cmp | cpx | cpy => exact compare_busRun h
  | bit m => cases h; exact ((r.load (.mem m)).applyFlags _).advance _ _
  | inc | dec | asl | lsr | rol | ror => exact modifyPlace_busRun h
  | inx | dex => exact stepRegister_busRun setX_busRun h
  | iny | dey => exact stepRegister_busRun setY_busRun h
  | bcc | bcs | beq | bmi | bne | bpl | bvc | bvs => exact branch_busRun h
  | jmp => exact execJmp_busRun h
  | jsr => cases h; exact ((r.push _).push _).jumpTo _ _
  | rts => cases h; exact r.pull.pull.jumpTo _ _
  | rti => cases h; exact r.returnFromInterrupt.addCycles _
  | brk => cases h; exact (r.enterInterrupt _ _ _ _).addCycles _
  | pha | php => cases h; exact (r.push _).advance _ _
  | pla => cases h; exact ((r.pull.trans (setA_busRun _ _)).applyFlags _).advance _ _
  | plp => cases h; exact (r.pull.writeP _).advance _ _
  | clc | cld | cli | clv | sec | sed | sei => cases h; exact (r.setFlag _ _).advance _ _
  | txs | nop | undef | halt => cases h; exact r.update rfl rfl rfl rfl rfl
  | debug => exact execDebug_busRun h

/-- So is every step (60_exceptions.md R455). -/
theorem step_busRun (h : step s = .next t) : BusRun s t := by
  rcases step_cases s with ⟨-, e⟩ | ⟨-, e⟩ <;> rw [e] at h
  · cases h
    exact (BusRun.refl s).gap
  · exact (BusRun.refl s).serviceSignals.fetch.trans (exec_busRun h)

end

end Sys2Proof.Machine
end

section
/-!
O50, O51. The invariant of the machine: the ACIA's transmit bits first, then memory, then each of the four things a run
is made of.
-/

namespace Sys2Proof.Machine

-- The ACIA (47_acia.md R363 to R371).

/-- A worker step keeps the transmit bits consistent: TxStart turns a pending byte into one in flight, TxFinish raises
TDRE only where no byte is pending (R370, R371). -/
theorem Acia.consistent_afterMove {d : Acia} (h : d.consistent) {m : WorkerMove} (he : moveEnabled m d = true) :
    (d.afterMove m).consistent := by
  obtain ⟨hempty, hfull⟩ := h
  cases m with
  | txStart =>
    have hp : d.txPending = true := by simp [moveEnabled] at he; exact he.1
    have ht : d.tdre = false := by simpa [hp] using hempty
    simp [Acia.consistent, Acia.afterMove, Acia.txStart, ht]
  | txFinish =>
    rcases hp : d.txPending with _ | _
    · simp [Acia.consistent, Acia.afterMove, Acia.txFinish, hp]
    · have ht : d.tdre = false := by simpa [hp] using hempty
      simp [Acia.consistent, Acia.afterMove, Acia.txFinish, hp, ht]
  | rxPoll answer => cases answer <;> exact ⟨hempty, hfull⟩

theorem consistent_workerStep (m : WorkerMove) {w : Acia × List Event} (h : w.1.consistent) :
    (workerStep m w).1.consistent := by
  unfold workerStep
  split_ifs with he
  · exact Acia.consistent_afterMove h he
  · exact h

theorem consistent_workerRun (ms : List WorkerMove) {w : Acia × List Event} (h : w.1.consistent) :
    (workerRun ms w).1.consistent := by
  induction ms generalizing w with
  | nil => exact h
  | cons m ms ih => exact ih (consistent_workerStep m h)

theorem consistent_gap {s : State} (h : s.acia.consistent) : (gap s).acia.consistent :=
  consistent_workerRun _ h

/-- A read changes at most RDRF (R366). -/
theorem consistent_aciaAfterRead {s : State} (h : s.acia.consistent) (w : Accessor) (a : Addr) :
    (aciaAfterRead w a s).consistent := by
  unfold aciaAfterRead Acia.afterRead
  split
  · split_ifs <;> exact h
  · exact h

/-- A master reset empties the transmitter, and a data write makes a byte pending (R363, R368). -/
theorem Acia.consistent_afterWrite {d : Acia} (h : d.consistent) (off : Nat) (v : Byte) :
    (d.afterWrite off v).consistent := by
  unfold Acia.afterWrite Acia.writeControl
  split_ifs
  · simp [Acia.consistent]
  · exact h
  · simp [Acia.consistent, Acia.writeData]

theorem consistent_aciaAfterWrite {s : State} (h : s.acia.consistent) (a : Addr) (v : Byte) :
    (aciaAfterWrite a v s).consistent := by
  unfold aciaAfterWrite
  split
  · exact Acia.consistent_afterWrite h _ v
  · exact h

-- Memory (20_memory.md R66).

/-- An entry of memory after a write access is an old one, or stands at a RAM address. -/
theorem mem_memWrite {s : State} {a : Addr} {v : Byte} {c : Host.Cell} (h : c ∈ (memWrite a v s).mem) :
    c ∈ s.mem ∨ (c = (a.toNat, v) ∧ s.kindAt a = some .ram) := by
  change c ∈ memAfterWrite a v (gap s) at h
  unfold memAfterWrite at h
  rw [kindAt_congr (gap_cfg s)] at h
  split at h
  next hk => exact (mem_memSet h).imp_right fun e => ⟨e, hk⟩
  next => exact .inl h

theorem isStorage_of_ram {s : State} {a : Addr} (h : s.kindAt a = some .ram) : s.isStorage a = true := by
  simp [State.isStorage, h]

-- The invariant.

/-- The invariant speaks of memory, the ACIA, the decode session, the configuration and bit 5 of P alone. -/
theorem State.Inv.of_registersOnly {s t : State} (h : s.Inv) (k : RegistersOnly s t) : t.Inv where
  memWf := k.mem ▸ h.memWf
  memMapped c hc := (isStorage_congr k.cfg _).trans (h.memMapped c (k.mem ▸ hc))
  bit5 := k.bit5 h.bit5
  acia := k.acia ▸ h.acia
  tapeRatio := k.tape ▸ h.tapeRatio

theorem State.Inv.setAcia {s : State} (h : s.Inv) {d : Acia} (hd : d.consistent) : (s.setAcia d).Inv where
  memWf := h.memWf
  memMapped := h.memMapped
  bit5 := h.bit5
  acia := hd
  tapeRatio := h.tapeRatio

theorem State.Inv.gap {s : State} (h : s.Inv) : (gap s).Inv :=
  (h.setAcia (consistent_gap h.acia)).of_registersOnly ⟨rfl, rfl, rfl, rfl, id⟩

theorem State.Inv.memRead {s : State} (h : s.Inv) (w : Accessor) (a : Addr) : (memRead w a s).2.Inv :=
  (h.setAcia (consistent_aciaAfterRead (consistent_gap h.acia) w a)).of_registersOnly ⟨rfl, rfl, rfl, rfl, id⟩

theorem State.Inv.memWrite {s : State} (h : s.Inv) (a : Addr) (v : Byte) : (memWrite a v s).Inv where
  memWf := memWrite_wf h.memWf a v
  memMapped c hc := by
    rw [isStorage_congr (memWrite_cfg s a v)]
    rcases mem_memWrite hc with old | ⟨rfl, hram⟩
    · exact h.memMapped c old
    · simpa using isStorage_of_ram hram
  bit5 := h.bit5
  acia := consistent_aciaAfterWrite (consistent_gap h.acia) a v
  tapeRatio := h.tapeRatio

theorem State.Inv.busStep {s t : State} (h : s.Inv) (k : BusStep s t) : t.Inv := by
  cases k with
  | gap => exact h.gap
  | read w a => exact h.memRead w a
  | write a v => exact h.memWrite a v
  | registers k => exact h.of_registersOnly k

/-- Settles O50: a step is a run of gaps, reads, writes and updates of registers, and each keeps the invariant. -/
theorem stepKeepsInv : Obligations.StepKeepsInv :=
  fun _ _ hs hstep => (step_busRun hstep).keeps (fun _ _ k h => h.busStep k) hs

theorem Acia.powerOn_consistent (c : Config) : (Acia.powerOn c).consistent := by
  simp [Acia.consistent, Acia.powerOn]

/-- The invariant at power-on holds for every configuration where it holds of the memory the machine is built with. -/
theorem State.powerOn_inv {c : Config} {m : Mem} (hwf : Mem.wf m)
    (hmapped : ∀ cell ∈ m, (State.powerOn c m).isStorage (BitVec.ofNat 16 cell.1) = true) :
    (State.powerOn c m).Inv where
  memWf := hwf
  memMapped := hmapped
  bit5 := flagX_or_20 c.resetP
  acia := Acia.powerOn_consistent c
  tapeRatio := rfl

/-- Settles O51: `State.reset` is the standard configuration at power-on with nothing listed in memory. -/
theorem resetHasInv : Obligations.ResetHasInv := State.powerOn_inv nil_wf (by simp)

end Sys2Proof.Machine
end

section
/-!
O55, O56. The footprint of every instruction: which registers, which flags and whether memory or `halted` can change.
The table `writes` says it for each constructor of `Instr`, `exec_kept` proves it, and both statements read it off.
-/

namespace Sys2Proof.Machine

-- What can be written, and what it is to write nothing else.

/-- A piece of the machine an instruction may write. -/
inductive Piece
  | a
  | x
  | y
  | sp
  | mem
  | halted
  | flag (f : Flag)

/-- Every piece outside the list is as before, and so are the latches and the stop request (10_state.md R32, R34). -/
structure KeptBut (ps : List Piece) (s t : State) : Prop where
  a : .a ∉ ps → t.a = s.a
  x : .x ∉ ps → t.x = s.x
  y : .y ∉ ps → t.y = s.y
  sp : .sp ∉ ps → t.sp = s.sp
  mem : .mem ∉ ps → t.mem = s.mem
  halted : .halted ∉ ps → t.halted = s.halted
  flag : ∀ f, .flag f ∉ ps → t.flag f = s.flag f
  resetLatch : t.resetLatch = s.resetLatch
  nmiLatch : t.nmiLatch = s.nmiLatch
  irqLatch : t.irqLatch = s.irqLatch
  stopRequested : t.stopRequested = s.stopRequested

-- The flags an operation defines (40_alu.md R140, R152).

/-- The value an operation defines for a flag, if any. -/
def FlagOut.get (o : FlagOut) : Flag → Option Bool
  | .n => o.n
  | .z => o.z
  | .c => o.c
  | .v => o.v
  | .b | .d | .i => none

theorem flag_applyFlags_get (p : Byte) (o : FlagOut) (g : Flag) :
    Machine.flag (applyFlags p o) g = (o.get g).getD (Machine.flag p g) := by
  rw [flag_applyFlags]
  cases g <;> rfl

/-- An operation defines no flag outside the list. -/
def FlagOut.Within (ps : List Piece) (o : FlagOut) : Prop := ∀ g, .flag g ∉ ps → o.get g = none

section
variable {ps : List Piece}

theorem FlagOut.within_nzcv (h : [.flag .n, .flag .z, .flag .c, .flag .v] ⊆ ps) (o : FlagOut) : o.Within ps := by
  intro g hg
  cases g with
  | b | d | i => rfl
  | n | z | c | v => exact absurd (h (by simp)) hg

theorem FlagOut.within_nzc (h : [.flag .n, .flag .z, .flag .c] ⊆ ps) {o : FlagOut} (hv : o.v = none) :
    o.Within ps := by
  intro g hg
  cases g with
  | v => exact hv
  | b | d | i => rfl
  | n | z | c => exact absurd (h (by simp)) hg

theorem FlagOut.within_nzv (h : [.flag .n, .flag .z, .flag .v] ⊆ ps) {o : FlagOut} (hc : o.c = none) :
    o.Within ps := by
  intro g hg
  cases g with
  | c => exact hc
  | b | d | i => rfl
  | n | z | v => exact absurd (h (by simp)) hg

theorem nzOf_within (h : [.flag .n, .flag .z] ⊆ ps) (r : Byte) : (nzOf r).Within ps := by
  intro g hg
  cases g with
  | c | v | b | d | i => rfl
  | n | z => exact absurd (h (by simp)) hg

end

-- Each operation, after a run that has kept everything outside the list.

theorem KeptBut.refl (ps : List Piece) (s : State) : KeptBut ps s s :=
  by constructor <;> intros <;> rfl

theorem KeptBut.trans {ps : List Piece} {s t u : State} (h : KeptBut ps s t) (k : KeptBut ps t u) : KeptBut ps s u where
  a n := (k.a n).trans (h.a n)
  x n := (k.x n).trans (h.x n)
  y n := (k.y n).trans (h.y n)
  sp n := (k.sp n).trans (h.sp n)
  mem n := (k.mem n).trans (h.mem n)
  halted n := (k.halted n).trans (h.halted n)
  flag f n := (k.flag f n).trans (h.flag f n)
  resetLatch := k.resetLatch.trans h.resetLatch
  nmiLatch := k.nmiLatch.trans h.nmiLatch
  irqLatch := k.irqLatch.trans h.irqLatch
  stopRequested := k.stopRequested.trans h.stopRequested

section
variable {ps : List Piece} {s t : State} (h : KeptBut ps s t)
include h

-- Registers.

theorem KeptBut.setA (hp : .a ∈ ps) (v : Byte) : KeptBut ps s (t.setA v) :=
  { h with a := (absurd hp ·) }

theorem KeptBut.setX (hp : .x ∈ ps) (v : Byte) : KeptBut ps s (t.setX v) :=
  { h with x := (absurd hp ·) }

theorem KeptBut.setY (hp : .y ∈ ps) (v : Byte) : KeptBut ps s (t.setY v) :=
  { h with y := (absurd hp ·) }

theorem KeptBut.setSp (hp : .sp ∈ ps) (v : Byte) : KeptBut ps s (t.setSp v) :=
  { h with sp := (absurd hp ·) }

theorem KeptBut.setHalted (hp : .halted ∈ ps) (b : Bool) : KeptBut ps s (t.setHalted b) :=
  { h with halted := (absurd hp ·) }

theorem KeptBut.setPc (w : Addr) : KeptBut ps s (t.setPc w) := { h with }

theorem KeptBut.addCycles (n : Nat) : KeptBut ps s (t.addCycles n) := { h with }

theorem KeptBut.emit (e : Event) : KeptBut ps s (t.emit e) := { h with }

theorem KeptBut.jumpTo (w : Addr) (cyc : Nat) : KeptBut ps s (jumpTo w cyc t) := (h.setPc w).addCycles cyc

theorem KeptBut.advance (len cyc : Nat) : KeptBut ps s (advance len cyc t) := h.jumpTo _ cyc

-- P.

/-- A new value of P, by what it leaves of the flags. -/
theorem KeptBut.setP {v : Byte} (hv : ∀ g, .flag g ∉ ps → Machine.flag v g = t.flag g) :
    KeptBut ps s (t.setP v) :=
  { h with flag := fun g n => (hv g n).trans (h.flag g n) }

theorem KeptBut.applyFlags {o : FlagOut} (ho : o.Within ps) : KeptBut ps s (t.applyFlags o) :=
  h.setP fun g n => by rw [flag_applyFlags_get, ho g n]; rfl

theorem KeptBut.setFlag {f : Flag} (hp : .flag f ∈ ps) (b : Bool) : KeptBut ps s (t.setFlag f b) :=
  h.setP fun g n => by rw [flag_setFlag, if_neg (by rintro rfl; exact n hp)]; rfl

theorem KeptBut.setFlag? {f : Flag} (hp : .flag f ∈ ps) (b : Option Bool) :
    KeptBut ps s (t.setP (Machine.setFlag? t.p f b)) :=
  h.setP fun g n => by rw [flag_setFlag?, if_neg (by rintro rfl; exact n hp)]; rfl

theorem KeptBut.writeP (hp : ∀ g, .flag g ∈ ps) (v : Byte) : KeptBut ps s (t.writeP v) :=
  h.setP fun g n => absurd (hp g) n

-- Accesses.

theorem KeptBut.memRead (w : Accessor) (a : Addr) : KeptBut ps s (memRead w a t).2 := { h with }

theorem KeptBut.memWrite (hp : .mem ∈ ps) (a : Addr) (v : Byte) : KeptBut ps s (memWrite a v t) :=
  { h with mem := (absurd hp ·) }

theorem KeptBut.memRead2 (w : Accessor) (a : Addr) : KeptBut ps s (memRead2 w a t).2 := (h.memRead _ _).memRead _ _

theorem KeptBut.readWordZP (z : Byte) : KeptBut ps s (readWordZP z t).2 := (h.memRead _ _).memRead _ _

theorem KeptBut.push (hm : .mem ∈ ps) (hs : .sp ∈ ps) (v : Byte) : KeptBut ps s (push v t) :=
  (h.memWrite hm _ v).setSp hs _

theorem KeptBut.pull (hs : .sp ∈ ps) : KeptBut ps s (pull t).2 := (h.setSp hs _).memRead _ _

theorem KeptBut.resolve (m : Ea) : KeptBut ps s (resolve m t).2 := by
  cases m with
  | indx z => exact h.readWordZP (z + t.x)
  | indy z => exact h.readWordZP z
  | zp | zpx | zpy | abs | absx | absy => exact h

theorem KeptBut.load (o : Src) : KeptBut ps s (load o t).2 := by
  cases o with
  | imm b => exact h
  | mem m => exact (h.resolve m).memRead _ _

theorem KeptBut.store (hm : .mem ∈ ps) (m : Ea) (v : Byte) : KeptBut ps s (store m v t) :=
  (h.resolve m).memWrite hm _ v

end

/-- What a read-modify-write writes: A or memory (41_addressing.md R186). -/
def placePiece : Place → Piece
  | .acc => .a
  | .mem _ => .mem

@[simp] theorem a_eq_placePiece {d : Place} : .a = placePiece d ↔ d = .acc := by
  cases d <;> simp [placePiece]

@[simp] theorem mem_eq_placePiece {d : Place} : .mem = placePiece d ↔ ∃ m, d = .mem m := by
  cases d <;> simp [placePiece]

@[simp] theorem ne_placePiece {p : Piece} (ha : p ≠ .a) (hm : p ≠ .mem) (d : Place) : p ≠ placePiece d := by
  cases d
  · exact ha
  · exact hm

section
variable {ps : List Piece} {s t : State} (h : KeptBut ps s t)
include h

theorem KeptBut.modify {d : Place} (hd : placePiece d ∈ ps) (f : Byte → AluOut) :
    KeptBut ps s (modify f d t).2 := by
  cases d with
  | acc => exact h.setA hd _
  | mem m => exact ((h.resolve m).memRead _ _).memWrite hd _ _

-- Interrupts.

theorem KeptBut.saveContext (hp : [.mem, .sp, .flag .b, .flag .i] ⊆ ps) (ret : Addr) (brk : Option Bool) :
    KeptBut ps s (saveContext ret brk t) := by
  have hm : .mem ∈ ps := hp (by simp)
  have hs : .sp ∈ ps := hp (by simp)
  have hb : .flag .b ∈ ps := hp (by simp)
  have hi : .flag .i ∈ ps := hp (by simp)
  exact ((((h.push hm hs (highByte ret)).push hm hs (lowByte ret)).setFlag? hb brk).push hm hs _).setFlag hi true

theorem KeptBut.enterInterrupt (hp : [.mem, .sp, .flag .b, .flag .i] ⊆ ps) (w : Accessor) (ret : Addr)
    (brk : Option Bool) (vec : Addr) : KeptBut ps s (enterInterrupt w ret brk vec t) :=
  ((h.saveContext hp ret brk).memRead2 w vec).setPc _

theorem KeptBut.returnFromInterrupt (hs : .sp ∈ ps) (hf : ∀ g, .flag g ∈ ps) :
    KeptBut ps s (returnFromInterrupt t) :=
  ((((h.pull hs).writeP hf _).pull hs).pull hs).setPc _

end

-- The shared meanings of the instructions.

section
variable {ps : List Piece} {s t : State}

theorem loadInto_kept {set : State → Byte → State} (hset : ∀ u v, KeptBut ps u (set u v))
    (hf : [.flag .n, .flag .z] ⊆ ps) {o : Src} (h : loadInto set o s = .next t) : KeptBut ps s t := by
  cases h
  exact ((((KeptBut.refl ps s).load o).trans (hset _ _)).applyFlags (nzOf_within hf _)).advance _ _

theorem storeFrom_kept (hm : .mem ∈ ps) {v : Byte} {m : Ea} (h : storeFrom v m s = .next t) : KeptBut ps s t := by
  cases h
  exact ((KeptBut.refl ps s).store hm m v).advance _ _

theorem transfer_kept {set : State → Byte → State} (hset : ∀ u v, KeptBut ps u (set u v))
    (hf : [.flag .n, .flag .z] ⊆ ps) {v : Byte} (h : transfer set v s = .next t) : KeptBut ps s t := by
  cases h
  exact ((hset s v).applyFlags (nzOf_within hf _)).advance _ _

theorem accumulate_kept (ha : .a ∈ ps) {f : Byte → AluOut} (hf : ∀ v, (f v).flags.Within ps) {o : Src}
    (h : accumulate f o s = .next t) : KeptBut ps s t := by
  cases h
  exact ((((KeptBut.refl ps s).load o).setA ha _).applyFlags (hf _)).advance _ _

theorem compare_kept (hf : [.flag .n, .flag .z, .flag .c] ⊆ ps) {r : Byte} {o : Src}
    (h : compare r o s = .next t) : KeptBut ps s t := by
  cases h
  exact (((KeptBut.refl ps s).load o).applyFlags (FlagOut.within_nzc hf rfl)).advance _ _

theorem modifyPlace_kept {d : Place} (hd : placePiece d ∈ ps) {f : Byte → AluOut}
    (hf : ∀ v, (f v).flags.Within ps) (h : modifyPlace f d s = .next t) : KeptBut ps s t := by
  have ho : (modify f d s).1.flags.Within ps := by cases d <;> exact hf _
  cases h
  exact (((KeptBut.refl ps s).modify hd f).applyFlags ho).advance _ _

theorem stepRegister_kept {set : State → Byte → State} (hset : ∀ u v, KeptBut ps u (set u v)) {out : AluOut}
    (hf : out.flags.Within ps) (h : stepRegister set out s = .next t) : KeptBut ps s t := by
  cases h
  exact ((hset s _).applyFlags hf).advance _ _

theorem branch_kept {taken : Bool} {off : Byte} (h : branch taken off s = .next t) : KeptBut ps s t := by
  cases h
  cases taken
  · exact (KeptBut.refl ps s).advance _ _
  · exact (KeptBut.refl ps s).jumpTo _ _

theorem execJmp_kept {g : Target} (h : execJmp g s = .next t) : KeptBut ps s t := by
  cases g <;> cases h
  · exact (KeptBut.refl ps s).jumpTo _ _
  · exact ((KeptBut.refl ps s).memRead2 _ _).jumpTo _ _

theorem execDebug_kept {sel : Byte} (h : execDebug sel s = .next t) : KeptBut ps s t := by
  cases h
  split_ifs
  · exact ((KeptBut.refl ps s).emit _).advance _ _
  · exact (KeptBut.refl ps s).jumpTo _ _

end

-- The table.

/-- What each instruction can write, by its rule (10_state.md R21 to R24, R26, R33). -/
@[simp] def writes : Instr → List Piece
  | .lda _ | .txa | .tya | .and _ | .ora _ | .eor _ => [.a, .flag .n, .flag .z]
  | .ldx _ | .tax | .tsx | .inx | .dex => [.x, .flag .n, .flag .z]
  | .ldy _ | .tay | .iny | .dey => [.y, .flag .n, .flag .z]
  | .txs => [.sp]
  | .sta _ | .stx _ | .sty _ => [.mem]
  | .adc _ | .sbc _ => [.a, .flag .n, .flag .z, .flag .c, .flag .v]
  | .cmp _ | .cpx _ | .cpy _ => [.flag .n, .flag .z, .flag .c]
  | .bit _ => [.flag .n, .flag .z, .flag .v]
  | .inc _ | .dec _ => [.mem, .flag .n, .flag .z]
  | .asl d | .lsr d | .rol d | .ror d => [placePiece d, .flag .n, .flag .z, .flag .c]
  | .bcc _ | .bcs _ | .beq _ | .bmi _ | .bne _ | .bpl _ | .bvc _ | .bvs _ | .jmp _ => []
  | .jsr _ | .pha | .php => [.mem, .sp]
  | .rts => [.sp]
  | .rti | .plp =>
    [.sp, .flag .n, .flag .v, .flag .b, .flag .d, .flag .i, .flag .z, .flag .c]
  | .brk => [.mem, .sp, .flag .b, .flag .i]
  | .pla => [.a, .sp, .flag .n, .flag .z]
  | .clc | .sec => [.flag .c]
  | .cld | .sed => [.flag .d]
  | .cli | .sei => [.flag .i]
  | .clv => [.flag .v]
  | .nop | .undef _ | .debug _ => []
  | .halt => [.halted]

/-- An instruction leaves every piece outside its row of the table as it was. -/
theorem exec_kept {i : Instr} {s t : State} (h : exec i s = .next t) : KeptBut (writes i) s t := by
  have r := KeptBut.refl (writes i) s
  have setA (hp : .a ∈ writes i) (u : State) (v : Byte) := (KeptBut.refl (writes i) u).setA hp v
  have setX (hp : .x ∈ writes i) (u : State) (v : Byte) := (KeptBut.refl (writes i) u).setX hp v
  have setY (hp : .y ∈ writes i) (u : State) (v : Byte) := (KeptBut.refl (writes i) u).setY hp v
  cases i with
  | lda => exact loadInto_kept (setA (by simp)) (by simp) h
  | ldx => exact loadInto_kept (setX (by simp)) (by simp) h
  | ldy => exact loadInto_kept (setY (by simp)) (by simp) h
  | sta | stx | sty => exact storeFrom_kept (by simp) h
  | txa | tya => exact transfer_kept (setA (by simp)) (by simp) h
  | tax | tsx => exact transfer_kept (setX (by simp)) (by simp) h
  | tay => exact transfer_kept (setY (by simp)) (by simp) h
  | adc | sbc =>
    simp only [exec, execAdc, execSbc] at h
    exact accumulate_kept (by simp) (fun _ => FlagOut.within_nzcv (by simp) _) h
  | and | ora | eor => exact accumulate_kept (by simp) (fun _ => nzOf_within (by simp) _) h
  | cmp | cpx | cpy => exact compare_kept (by simp) h
  | bit m => cases h; exact ((r.load (.mem m)).applyFlags (FlagOut.within_nzv (by simp) rfl)).advance _ _
  | inc | dec => exact modifyPlace_kept (by simp [placePiece]) (fun _ => nzOf_within (by simp) _) h
  | inx | dex => exact stepRegister_kept (setX (by simp)) (nzOf_within (by simp) _) h
  | iny | dey => exact stepRegister_kept (setY (by simp)) (nzOf_within (by simp) _) h
  | asl | lsr | rol | ror => exact modifyPlace_kept (by simp) (fun _ => FlagOut.within_nzc (by simp) rfl) h
  | bcc | bcs | beq | bmi | bne | bpl | bvc | bvs => exact branch_kept h
  | jmp => exact execJmp_kept h
  | jsr => cases h; exact ((r.push (by simp) (by simp) _).push (by simp) (by simp) _).jumpTo _ _
  | rts => cases h; exact ((r.pull (by simp)).pull (by simp)).jumpTo _ _
  | rti => cases h; exact (r.returnFromInterrupt (by simp) (by intro g; cases g <;> simp)).addCycles _
  | brk => cases h; exact (r.enterInterrupt (by simp) _ _ _ _).addCycles _
  | pha | php => cases h; exact (r.push (by simp) (by simp) _).advance _ _
  | pla => cases h; exact (((r.pull (by simp)).setA (by simp) _).applyFlags (nzOf_within (by simp) _)).advance _ _
  | plp => cases h; exact ((r.pull (by simp)).writeP (by intro g; cases g <;> simp) _).advance _ _
  | clc | cld | cli | clv | sec | sed | sei => cases h; exact (r.setFlag (by simp) _).advance _ _
  | txs => cases h; exact (r.setSp (by simp) _).advance _ _
  | nop | undef => cases h; exact r.advance _ _
  | halt => cases h; exact (r.advance _ _).setHalted (by simp) _
  | debug => exact execDebug_kept h

-- The table read by columns: the instructions that can write a piece.

theorem writers_of_a {i : Instr} (h : .a ∈ writes i) :
    (∃ o, i = .lda o ∨ i = .adc o ∨ i = .sbc o ∨ i = .and o ∨ i = .ora o ∨ i = .eor o) ∨
      i = .txa ∨ i = .tya ∨ i = .pla ∨
      i = .asl .acc ∨ i = .lsr .acc ∨ i = .rol .acc ∨ i = .ror .acc := by
  cases i <;> simp_all

theorem writers_of_x {i : Instr} (h : .x ∈ writes i) :
    (∃ o, i = .ldx o) ∨ i = .tax ∨ i = .tsx ∨ i = .inx ∨ i = .dex := by
  cases i <;> simp_all

theorem writers_of_y {i : Instr} (h : .y ∈ writes i) :
    (∃ o, i = .ldy o) ∨ i = .tay ∨ i = .iny ∨ i = .dey := by
  cases i <;> simp_all

theorem writers_of_sp {i : Instr} (h : .sp ∈ writes i) :
    i = .txs ∨ (∃ w, i = .jsr w) ∨ i = .rts ∨ i = .rti ∨ i = .brk ∨
      i = .pha ∨ i = .php ∨ i = .pla ∨ i = .plp := by
  cases i <;> simp_all

theorem writers_of_mem {i : Instr} (h : .mem ∈ writes i) :
    (∃ m, i = .sta m ∨ i = .stx m ∨ i = .sty m ∨ i = .inc m ∨ i = .dec m ∨ i = .asl (.mem m) ∨
        i = .lsr (.mem m) ∨ i = .rol (.mem m) ∨ i = .ror (.mem m)) ∨
      (∃ w, i = .jsr w) ∨ i = .brk ∨ i = .pha ∨ i = .php := by
  cases i <;> simp_all

theorem writers_of_halted {i : Instr} (h : .halted ∈ writes i) : i = .halt := by
  cases i <;> simp_all

theorem writers_of_v {i : Instr} (h : .flag .v ∈ writes i) :
    (∃ o, i = .adc o ∨ i = .sbc o) ∨ (∃ m, i = .bit m) ∨ i = .clv ∨ i = .plp ∨ i = .rti := by
  cases i <;> simp_all

theorem writers_of_b {i : Instr} (h : .flag .b ∈ writes i) : i = .brk ∨ i = .plp ∨ i = .rti := by
  cases i <;> simp_all

theorem writers_of_d {i : Instr} (h : .flag .d ∈ writes i) : i = .sed ∨ i = .cld ∨ i = .plp ∨ i = .rti := by
  cases i <;> simp_all

theorem writers_of_i {i : Instr} (h : .flag .i ∈ writes i) :
    i = .sei ∨ i = .cli ∨ i = .plp ∨ i = .rti ∨ i = .brk := by
  cases i <;> simp_all

theorem writers_of_c {i : Instr} (h : .flag .c ∈ writes i) :
    (∃ o, i = .adc o ∨ i = .sbc o ∨ i = .cmp o ∨ i = .cpx o ∨ i = .cpy o) ∨
      (∃ d, i = .asl d ∨ i = .lsr d ∨ i = .rol d ∨ i = .ror d) ∨
      i = .clc ∨ i = .sec ∨ i = .plp ∨ i = .rti := by
  cases i <;> simp_all

/-- A flag that changes is one the list names. -/
theorem KeptBut.flag_mem {ps : List Piece} {s t : State} (k : KeptBut ps s t) {f : Flag}
    (ne : t.flag f ≠ s.flag f) : .flag f ∈ ps := not_imp_comm.mp (k.flag f) ne

theorem BusStep.bit5 {s t : State} (h : BusStep s t) (hs : flagX s.p = true) : flagX t.p = true := by
  cases h with
  | gap | read | write => exact hs
  | registers k => exact k.bit5 hs

/-- Settles O55: a register that changes, or memory, stands in the instruction's row of the table. -/
theorem writersOfTheRegisters : Obligations.WritersOfTheRegisters := by
  intro i s t h
  have k := exec_kept h
  refine ⟨fun ne => writers_of_a ?_, fun ne => writers_of_x ?_, fun ne => writers_of_y ?_,
    fun ne => writers_of_sp ?_, fun ne => writers_of_mem ?_⟩
  · exact not_imp_comm.mp k.a ne
  · exact not_imp_comm.mp k.x ne
  · exact not_imp_comm.mp k.y ne
  · exact not_imp_comm.mp k.sp ne
  · exact not_imp_comm.mp k.mem ne

/-- Settles O56: so does a flag that changes; bit 5 is kept by each of the four things an instruction is made of. -/
theorem writersOfTheFlags : Obligations.WritersOfTheFlags := by
  intro i s t h
  have k := exec_kept h
  have bit5 : flagX s.p = true → flagX t.p = true := (exec_busRun h).keeps fun _ _ step => step.bit5
  exact ⟨fun ne => writers_of_v (k.flag_mem ne), fun ne => writers_of_b (k.flag_mem ne),
    fun ne => writers_of_d (k.flag_mem ne), fun ne => writers_of_i (k.flag_mem ne),
    fun ne => writers_of_c (k.flag_mem ne), bit5, fun ne => writers_of_halted (not_imp_comm.mp k.halted ne),
    k.resetLatch, k.nmiLatch, k.irqLatch, k.stopRequested⟩

end Sys2Proof.Machine
end

section
/-!
O58. The machine right after its construction: what one registered region does to each byte of memory, then all of them
in order, the last region on a block winning (20_memory.md R62).
-/

namespace Sys2Proof.Machine

-- Spans.

/-- The block of an address is the address divided by 256 (20_memory.md R61). -/
theorem toNat_highByte (a : Addr) : (highByte a).toNat = a.toNat / 256 := by
  have := a.isLt
  simp only [highByte, BitVec.extractLsb'_toNat, Nat.shiftRight_eq_div_pow]
  omega

/-- A region covers the block of an address exactly where the address lies in the region's span. -/
theorem covers_highByte {r : Region} {a : Addr} :
    covers r (highByte a).toNat = true ↔
      256 * baseBlock r ≤ a.toNat ∧ a.toNat < 256 * (baseBlock r + r.blockCount) := by
  simp only [covers, toNat_highByte, Bool.and_eq_true, decide_eq_true_eq]
  omega

/-- A region that is not at fault ends inside the 64 KB space (70_reset_and_hazards.md R497). -/
theorem fits_of_regionFault {r : Region} {bytes : Contents} (h : regionFault r bytes = none) :
    baseBlock r + r.blockCount ≤ 256 := by
  have span : regionFault.spanFault r = none := by
    unfold regionFault at h
    split at h
    · cases h
    · split_ifs at h
      exact h
    · exact h
  unfold regionFault.spanFault at span
  split_ifs at span
  omega

-- Memory.

/-- A byte of memory after erasing a span that does not hold it. -/
theorem memGet_memErase (m : Mem) {lo hi a : Nat} (h : a < lo ∨ hi ≤ a) :
    memGet (memErase m lo hi) a = memGet m a := by
  induction m with
  | nil => rfl
  | cons c m ih =>
    unfold memErase at ih ⊢
    by_cases hc : c.1 < lo ∨ hi ≤ c.1
    · simp [hc, memGet, ih]
    · have : c.1 ≠ a := by omega
      simp [hc, memGet, ih, this]

/-- A byte of memory after storing bytes at consecutive addresses: the one stored there, or the old one. -/
theorem memGet_memSetList (vs : List Byte) (m : Mem) (lo a : Nat) :
    memGet (memSetList m lo vs) a = if lo ≤ a then vs[a - lo]?.getD (memGet m a) else memGet m a := by
  induction vs generalizing m lo with
  | nil => simp [memSetList]
  | cons v vs ih =>
    rw [memSetList, ih, memGet_memSet]
    rcases lt_trichotomy lo a with hlt | rfl | hgt
    · obtain ⟨k, rfl⟩ := Nat.exists_eq_add_of_lt hlt
      simp [show lo + k + 1 - lo = k + 1 by omega, show lo ≤ lo + k + 1 by omega, show lo ≠ lo + k + 1 by omega]
    · simp
    · simp [show ¬ lo ≤ a by omega, show ¬ lo + 1 ≤ a by omega, show lo ≠ a by omega]

-- One region.

theorem regionBytes_length_le (r : Region) (bytes : Contents) :
    (regionBytes r bytes).length ≤ 256 * r.blockCount := by
  unfold regionBytes
  split <;> simp

theorem registerBytes_wf {m : Mem} (hm : Mem.wf m) {r : Region} (hr : baseBlock r + r.blockCount ≤ 256)
    (bytes : Contents) : Mem.wf (registerBytes r bytes m) := by
  have := regionBytes_length_le r bytes
  exact memSetList_wf (memErase_wf hm _ _) _ _ (by omega)

/-- Registering a region changes no byte outside its span. -/
theorem memGet_registerBytes_outside (m : Mem) {r : Region} (bytes : Contents) {a : Addr}
    (h : covers r (highByte a).toNat = false) : memGet (registerBytes r bytes m) a.toNat = memGet m a.toNat := by
  have out : ¬ (256 * baseBlock r ≤ a.toNat ∧ a.toNat < 256 * (baseBlock r + r.blockCount)) :=
    fun hc => by simp [covers_highByte.mpr hc] at h
  have hl := regionBytes_length_le r bytes
  rw [registerBytes, memGet_memSetList, memGet_memErase m (by omega)]
  split_ifs with hlo
  · rw [List.getElem?_eq_none (by omega), Option.getD_none]
  · rfl

/-- Inside its span, a RAM or a ROM holds the bytes it is registered with. -/
theorem memGet_registerBytes_inside (m : Mem) {r : Region} {bytes : List Byte} {a : Addr}
    (hk : r.kind = .ram ∨ r.kind = .rom) (hc : covers r (highByte a).toNat = true)
    (hl : a.toNat - 256 * baseBlock r < bytes.length) :
    some (memGet (registerBytes r (some bytes) m) a.toNat) = bytes[a.toNat - 256 * baseBlock r]? := by
  obtain ⟨hlo, hhi⟩ := covers_highByte.mp hc
  have hb : regionBytes r (some bytes) = bytes.take (256 * r.blockCount) := by
    rcases hk with hk | hk <;> simp [regionBytes, hk]
  rw [registerBytes, memGet_memSetList, if_pos hlo, hb, List.getElem?_take_of_lt (by omega),
    List.getElem?_eq_getElem hl, Option.getD_some]

-- All regions, in order.

theorem registerAll_wf {rs : List Region} {cs : List Contents} (h : regionsFault rs cs = none) {m : Mem}
    (hm : Mem.wf m) : Mem.wf (registerAll rs cs m) := by
  induction rs generalizing cs m with
  | nil => exact hm
  | cons r rs ih =>
    unfold regionsFault at h
    split at h
    next => cases h
    next hr => exact ih h (registerBytes_wf hm (fits_of_regionFault hr) _)

/-- A byte in no region's span is as it was before they were registered. -/
theorem memGet_registerAll_outside {rs : List Region} {a : Addr} (h : ∀ r ∈ rs, covers r (highByte a).toNat = false)
    (cs : List Contents) (m : Mem) : memGet (registerAll rs cs m) a.toNat = memGet m a.toNat := by
  induction rs generalizing cs m with
  | nil => rfl
  | cons r rs ih =>
    rw [registerAll, ih (fun r' hr' => h r' (by simp [hr'])), memGet_registerBytes_outside m _ (h r (by simp))]

/-- A byte in the span of a RAM or a ROM that no later region hides is the one that region was given (R62). -/
theorem memGet_registerAll_last {rs : List Region} {cs : List Contents} {k : Nat} {r : Region}
    {bytes : List Byte} {a : Addr} (hr : rs[k]? = some r) (hb : cs[k]? = some (some bytes))
    (hk : r.kind = .ram ∨ r.kind = .rom) (hc : covers r (highByte a).toNat = true)
    (hl : a.toNat - 256 * baseBlock r < bytes.length)
    (later : ∀ (j : Nat) (r' : Region), k < j → rs[j]? = some r' → covers r' (highByte a).toNat = false)
    (m : Mem) : some (memGet (registerAll rs cs m) a.toNat) = bytes[a.toNat - 256 * baseBlock r]? := by
  induction rs generalizing cs k m with
  | nil => simp at hr
  | cons r₀ rs ih =>
    cases k with
    | zero =>
      have hcs : cs.head?.join = some bytes := by cases cs <;> simp_all
      obtain rfl : r₀ = r := by simpa using hr
      have rest : ∀ r' ∈ rs, covers r' (highByte a).toNat = false := by
        intro r' hr'
        obtain ⟨j, hj⟩ := List.mem_iff_getElem?.mp hr'
        exact later (j + 1) r' (by omega) (by simpa using hj)
      rw [registerAll, memGet_registerAll_outside rest, hcs]
      exact memGet_registerBytes_inside m hk hc hl
    | succ k =>
      exact ih (k := k) (by simpa using hr) (by simpa using hb)
        (fun j r' hj hr' => later (j + 1) r' (by omega) (by simpa using hr')) _

/-- A machine that is built has no faulty region, and is its configuration at power-on (R490, R497). -/
theorem powerOn_ok {c : Config} {contents : List Contents} {s : State} (h : powerOn c contents = .ok s) :
    regionsFault c.regionTable contents = none ∧ s = State.powerOn c (registerAll c.regionTable contents []) := by
  unfold powerOn at h
  split at h
  next => cases h
  next hf =>
    cases h
    unfold configFault at hf
    split at hf
    next => cases hf
    next hr => exact ⟨hr, rfl⟩

/-- Settles O58, by induction on the region table: the fixed fields are those of `State.powerOn`. -/
theorem powerOnMachine : Obligations.PowerOnMachine := by
  intro c contents s h
  obtain ⟨hf, rfl⟩ := powerOn_ok h
  refine ⟨rfl, rfl, rfl, rfl, rfl, rfl, rfl, rfl, rfl, rfl, rfl, rfl, rfl, rfl, rfl, registerAll_wf hf nil_wf, ?_⟩
  intro a k r bytes hr hb hk _ hl hc later
  exact memGet_registerAll_last hr hb hk hc hl later []

end Sys2Proof.Machine
end

section
/-!
O12, O13. One bus access by the kind of the owning region: an equation for each kind, for reads and for writes
(20_memory.md R64, R66).
-/

namespace Sys2Proof.Machine

section
variable {a : Addr} {s : State}

-- Reads. Those of unmapped addresses, RAM and ROM are plain.

theorem plainAt_unmapped (h : s.kindAt a = none) : s.plainAt a = true := by simp [State.plainAt, h]

theorem plainAt_rom (h : s.kindAt a = some .rom) : s.plainAt a = true := by simp [State.plainAt, h]

/-- An unmapped address reads as its own high byte (R64). -/
theorem traceRead_unmapped (h : s.kindAt a = none) : s.traceRead a = highByte a := by simp [State.traceRead, h]

/-- ROM reads the stored byte. -/
theorem traceRead_rom (h : s.kindAt a = some .rom) : s.traceRead a = s.memByte a := by
  simp [State.traceRead, h, State.memByte]

/-- A read of the ACIA, after the gap: the register at the offset, and the read's effect on the ACIA alone
(47_acia.md R360). -/
theorem memRead_acia (h : s.kindAt a = some .acia) (w : Accessor) :
    memRead w a s = ((gap s).acia.peek (s.offsetAt a),
      (gap s).setAcia ((gap s).acia.afterRead (s.offsetAt a) (sparesAcia w s))) := by
  have hk : (gap s).kindAt a = some .acia := (kindAt_congr (gap_cfg s) a).trans h
  have hs : sparesAcia w (gap s) = sparesAcia w s := rfl
  simp only [memRead, State.traceRead, readEffect, aciaAfterRead, eventsAfterRead, hk, hs,
    offsetAt_congr (gap_cfg s), State.setAcia]

/-- A read of an external device: a free byte, and the device sees the access (R64). -/
theorem memRead_device (h : s.kindAt a = some .device) (w : Accessor) :
    memRead w a s = (Config.deviceByte (s.tick + 1) a, (gap s).emit (.deviceRead a (s.offsetAt a))) := by
  have hk : (gap s).kindAt a = some .device := (kindAt_congr (gap_cfg s) a).trans h
  simp only [memRead, State.traceRead, readEffect, aciaAfterRead, eventsAfterRead, hk,
    offsetAt_congr (gap_cfg s), State.emit, gap_tick]

-- Writes.

/-- A write to an unmapped address or to ROM is discarded (R66). -/
theorem memWrite_discarded (h : s.kindAt a = none ∨ s.kindAt a = some .rom) (v : Byte) : memWrite a v s = gap s := by
  rw [← kindAt_congr (gap_cfg s)] at h
  rcases h with hk | hk <;>
    simp only [memWrite, writeEffect, memAfterWrite, aciaAfterWrite, eventsAfterWrite, hk]

/-- A write to RAM changes memory alone (R66). -/
theorem memWrite_ram (h : s.kindAt a = some .ram) (v : Byte) :
    memWrite a v s = (gap s).setMem (memWrite a v s).mem := by
  have hk : (gap s).kindAt a = some .ram := (kindAt_congr (gap_cfg s) a).trans h
  simp only [memWrite, writeEffect, aciaAfterWrite, eventsAfterWrite, hk, State.setMem]

/-- A write to the ACIA changes the ACIA alone (47_acia.md R360). -/
theorem memWrite_acia (h : s.kindAt a = some .acia) (v : Byte) :
    memWrite a v s = (gap s).setAcia ((gap s).acia.afterWrite (s.offsetAt a) v) := by
  have hk : (gap s).kindAt a = some .acia := (kindAt_congr (gap_cfg s) a).trans h
  simp only [memWrite, writeEffect, memAfterWrite, aciaAfterWrite, eventsAfterWrite, hk,
    offsetAt_congr (gap_cfg s), State.setAcia]

/-- An external device receives the write (R66). -/
theorem memWrite_device (h : s.kindAt a = some .device) (v : Byte) :
    memWrite a v s = (gap s).emit (.deviceWrite a (s.offsetAt a) v) := by
  have hk : (gap s).kindAt a = some .device := (kindAt_congr (gap_cfg s) a).trans h
  simp only [memWrite, writeEffect, memAfterWrite, aciaAfterWrite, eventsAfterWrite, hk,
    offsetAt_congr (gap_cfg s), State.emit]

end

-- The ACIA's two registers, by the parity of the offset (47_acia.md R360).

section
variable {d : Acia} {off : Nat}

theorem Acia.peek_even (h : off % 2 = 0) : d.peek off = d.status := if_pos h

theorem Acia.peek_odd (h : ¬ off % 2 = 0) : d.peek off = d.rdr := if_neg h

theorem Acia.afterRead_even (h : off % 2 = 0) (spared : Bool) : d.afterRead off spared = d := if_pos h

theorem Acia.afterRead_odd (h : ¬ off % 2 = 0) (spared : Bool) :
    d.afterRead off spared = if spared then d else { d with rdrf := false } := if_neg h

theorem Acia.afterWrite_even (h : off % 2 = 0) (v : Byte) : d.afterWrite off v = d.writeControl v := if_pos h

theorem Acia.afterWrite_odd (h : ¬ off % 2 = 0) (v : Byte) : d.afterWrite off v = d.writeData v := if_neg h

end

/-- TDRE and RDRF stand in different bits, so the status is their sum (R361). -/
theorem Acia.status_eq_add (d : Acia) :
    d.status = (if d.tdre then 0x02 else 0x00) + (if d.rdrf then 0x01 else 0x00) := by
  unfold Acia.status
  cases d.tdre <;> cases d.rdrf <;> rfl

/-- The data reads that keep RDRF: those of the RESET service and those the stray-read quirk covers (R367, R382). -/
theorem sparesAcia_iff {w : Accessor} {s : State} : sparesAcia w s = true ↔
    w = .reset ∨ s.cfg.quirkStrayRead = true ∧ w = .instruction ∧ s.pc = s.cfg.quirkStrayReadPC := by
  simp only [sparesAcia, strayRead, Bool.or_eq_true, Bool.and_eq_true, decide_eq_true_eq, and_assoc]
  exact or_comm

/-- Settles O12, by the kind of the owning region. -/
theorem busReadByRegionKind : Obligations.BusReadByRegionKind := by
  intro w a s
  split
  next h => rw [memRead_plain (plainAt_unmapped h), traceRead_unmapped h]
  next h => rw [memRead_plain (plainAt_ram h), traceRead_ram h]
  next h => rw [memRead_plain (plainAt_rom h), traceRead_rom h]
  next h =>
    split
    next even =>
      rw [memRead_acia h, Acia.peek_even even, Acia.afterRead_even even, Acia.status_eq_add]
      rfl
    next odd =>
      rw [memRead_acia h, Acia.peek_odd odd, Acia.afterRead_odd odd]
      by_cases spared : sparesAcia w s = true
      · rw [if_pos spared, if_pos (sparesAcia_iff.mp spared)]
        rfl
      · rw [if_neg spared, if_neg (mt sparesAcia_iff.mpr spared)]
  next h => exact memRead_device h w

/-- Settles O13, by the kind of the owning region. -/
theorem busWriteByRegionKind : Obligations.BusWriteByRegionKind := by
  intro a v s
  split
  next h => exact memWrite_discarded (.inl h) v
  next h =>
    refine ⟨memWrite_ram h v, ?_, fun b hb => ?_⟩
    · rw [memByte_memWrite, if_pos ⟨rfl, h⟩]
    · rw [memByte_memWrite, if_neg (fun hc => hb hc.1)]
  next h => exact memWrite_discarded (.inr h) v
  next h =>
    split
    next even =>
      rw [memWrite_acia h, Acia.afterWrite_even even]
      rfl
    next odd =>
      rw [memWrite_acia h, Acia.afterWrite_odd odd]
      rfl
  next h => exact memWrite_device h v

end Sys2Proof.Machine
end

section
/-!
O14. The stack (20_memory.md R74).
-/

namespace Sys2Proof.Machine

/-- A pull after a push gives the byte back where the stack page is RAM: S is where it was, and so is the byte. -/
theorem pull_push {s : State} (h : s.kindAt 0x0100 = some .ram) (v : Byte) : (pull (push v s)).1 = v := by
  have hr : (push v s).kindAt 0x0100 = some .ram := (kindAt_congr (push_cfg s v) _).trans h
  rw [(pull_spec hr).1, push_sp, sub_add_cancel, memByte_push, if_pos ⟨rfl, h⟩]

/-- Settles O14: the model's push and pull with the stack addresses as numbers, and `pull_push`. -/
theorem pushAndPull : Obligations.PushAndPull := by
  intro v s
  have hpull : (s.sp + 1).toNat = (s.sp.toNat + 1) % 256 := BitVec.toNat_add ..
  refine ⟨?_, ?_, ?_, ?_, fun h => ⟨pull_push h v, ?_⟩⟩
  · rw [← stackAddr_eq]
    rfl
  · rw [← hpull, ← stackAddr_eq]
    rfl
  · rw [push_sp]
    bv_omega
  · rw [pull_sp, hpull]
  · rw [pull_sp, push_sp, sub_add_cancel]

end Sys2Proof.Machine
end

section
/-!
O15. The region table: a region registered later takes its blocks from the earlier ones (20_memory.md R62), so the owner
of an address covers it.
-/

namespace Sys2Proof.Machine

/-- Registering one more region: it takes the blocks it covers and leaves every other slot alone (R62). -/
theorem slotOf_append_singleton (table : List Region) (r : Region) (blk : Nat) :
    slotOf (table ++ [r]) blk = if covers r blk then some r else slotOf table blk := by
  simp [slotOf, List.foldl_append]

/-- What stands in a slot covers it. -/
theorem covers_of_slotOf {table : List Region} {blk : Nat} {r : Region} (h : slotOf table blk = some r) :
    covers r blk = true := by
  induction table using List.reverseRecOn with
  | nil => cases h
  | append_singleton table last ih =>
    rw [slotOf_append_singleton] at h
    split_ifs at h with hc
    · cases h
      exact hc
    · exact ih h

/-- The offset of an address with an owner (R63). -/
theorem offsetAt_of_owner {s : State} {a : Addr} {r : Region} (h : s.owner a = some r) :
    s.offsetAt a = a.toNat - 256 * baseBlock r := by
  simp only [State.offsetAt, h]

/-- An address lies inside the span of its owner. -/
theorem mem_span_of_owner {s : State} {a : Addr} {r : Region} (h : s.owner a = some r) :
    256 * baseBlock r ≤ a.toNat ∧ a.toNat < 256 * (baseBlock r + r.blockCount) :=
  covers_highByte.mp (covers_of_slotOf h)

/-- Settles O15: the table's law is `slotOf_append_singleton`; the offset is exact as the owner covers the address. -/
theorem laterRegionWins : Obligations.LaterRegionWins := by
  refine ⟨fun _ => rfl, fun table r blk => ?_, fun s a r h => ?_⟩
  · simp only [slotOf_append_singleton, covers, Bool.and_eq_true, decide_eq_true_eq]
  · obtain ⟨hlo, hhi⟩ := mem_span_of_owner h
    rw [offsetAt_of_owner h]
    omega

end Sys2Proof.Machine
end

section
/-!
O54. ROM along a run: the configuration never changes, so ROM stays ROM, and only a write to RAM changes a
byte of memory.
-/

namespace Sys2Proof.Machine

/-- Nothing the CPU does changes the configuration (10_state.md R37). -/
theorem BusStep.cfg {s t : State} (h : BusStep s t) : t.cfg = s.cfg := by
  cases h with
  | gap | read | write => rfl
  | registers k => exact k.cfg

/-- Nor a byte outside RAM (20_memory.md R66). -/
theorem BusStep.memByte_of_not_ram {s t : State} (h : BusStep s t) {a : Addr} (ha : s.kindAt a ≠ some .ram) :
    t.memByte a = s.memByte a := by
  cases h with
  | gap | read => rfl
  | write b v =>
    rw [memByte_memWrite]
    exact if_neg fun ⟨hab, hb⟩ => ha (hab ▸ hb)
  | registers k => simp only [State.memByte, k.mem]

section
variable (op : HostOp) (s : State)

@[simp] theorem raiseIrq_cfg : (raiseIrq s).cfg = s.cfg := by
  unfold raiseIrq
  split_ifs <;> rfl

@[simp] theorem raiseIrq_mem : (raiseIrq s).mem = s.mem := by
  unfold raiseIrq
  split_ifs <;> rfl

@[simp] theorem hostAct_cfg : (hostAct op s).cfg = s.cfg := by
  cases op with
  | raiseIrq => exact raiseIrq_cfg s
  | _ => rfl

@[simp] theorem hostAct_mem : (hostAct op s).mem = s.mem := by
  cases op with
  | raiseIrq => exact raiseIrq_mem s
  | _ => rfl

end

/-- The address is ROM and holds the byte. -/
def RomHolds (a : Addr) (v : Byte) (s : State) : Prop := s.kindAt a = some .rom ∧ s.memByte a = v

section
variable {a : Addr} {v : Byte} {s t : State} (h : RomHolds a v s)
include h

theorem RomHolds.congr (hc : t.cfg = s.cfg) (hm : t.memByte a = s.memByte a) : RomHolds a v t :=
  ⟨(kindAt_congr hc a).trans h.1, hm.trans h.2⟩

theorem RomHolds.busStep (k : BusStep s t) : RomHolds a v t :=
  h.congr k.cfg (k.memByte_of_not_ram (by simp [h.1]))

/-- No agent's move changes ROM: the CPU's is a run of bus steps, the worker and the host leave memory alone. -/
theorem RomHolds.act {m : Move} (k : act m s = .next t) : RomHolds a v t := by
  cases m with
  | cpu => exact (step_busRun k).keeps (fun _ _ k h => h.busStep k) h
  | worker m =>
    cases k
    exact h.congr rfl rfl
  | host op =>
    cases k
    exact h.congr (hostAct_cfg op s) (by simp only [State.memByte, hostAct_mem])

end

/-- Settles O54, by induction on the run. -/
theorem romNeverChanges : Obligations.RomNeverChanges := by
  intro s t a run hrom
  have holds : RomHolds a (s.memByte a) t := by
    induction run with
    | refl => exact ⟨hrom, rfl⟩
    | move m _ k ih => exact ih.act k
  exact holds

end Sys2Proof.Machine
end

section
/-!
O1, O3, O4, O5. Decoding and encoding (30_encoding.md R100 to R108): what an entry of the opcode map is, that the opcode
byte and the operand bytes of an instruction give it back, and how the decoder reads a list of bytes.
-/

namespace Sys2Proof.Laws

/-- Every well-formed instruction is encoded as its opcode byte and its operand bytes. -/
theorem encodes : ∀ i : Instr, Encodes.Statement i
  | .lda o => Encodes.lda o
  | .ldx o => Encodes.ldx o
  | .ldy o => Encodes.ldy o
  | .sta m => Encodes.sta m
  | .stx m => Encodes.stx m
  | .sty m => Encodes.sty m
  | .tax => Encodes.tax
  | .tay => Encodes.tay
  | .txa => Encodes.txa
  | .tya => Encodes.tya
  | .tsx => Encodes.tsx
  | .txs => Encodes.txs
  | .adc o => Encodes.adc o
  | .sbc o => Encodes.sbc o
  | .and o => Encodes.and o
  | .ora o => Encodes.ora o
  | .eor o => Encodes.eor o
  | .cmp o => Encodes.cmp o
  | .cpx o => Encodes.cpx o
  | .cpy o => Encodes.cpy o
  | .bit m => Encodes.bit m
  | .inc m => Encodes.inc m
  | .dec m => Encodes.dec m
  | .inx => Encodes.inx
  | .iny => Encodes.iny
  | .dex => Encodes.dex
  | .dey => Encodes.dey
  | .asl d => Encodes.asl d
  | .lsr d => Encodes.lsr d
  | .rol d => Encodes.rol d
  | .ror d => Encodes.ror d
  | .bcc b => Encodes.bcc b
  | .bcs b => Encodes.bcs b
  | .beq b => Encodes.beq b
  | .bmi b => Encodes.bmi b
  | .bne b => Encodes.bne b
  | .bpl b => Encodes.bpl b
  | .bvc b => Encodes.bvc b
  | .bvs b => Encodes.bvs b
  | .jmp t => Encodes.jmp t
  | .jsr w => Encodes.jsr w
  | .rts => Encodes.rts
  | .rti => Encodes.rti
  | .brk => Encodes.brk
  | .pha => Encodes.pha
  | .php => Encodes.php
  | .pla => Encodes.pla
  | .plp => Encodes.plp
  | .clc => Encodes.clc
  | .cld => Encodes.cld
  | .cli => Encodes.cli
  | .clv => Encodes.clv
  | .sec => Encodes.sec
  | .sed => Encodes.sed
  | .sei => Encodes.sei
  | .nop => Encodes.nop
  | .undef op => Encodes.undef op
  | .halt => Encodes.halt
  | .debug b => Encodes.debug b

end Sys2Proof.Laws

namespace Sys2Proof.Machine

-- The undefined opcodes.

/-- The opcode map answers UNDEF for each of the 105 undefined byte values (R108). -/
theorem opcodeMap_of_undefined {op : Byte} (h : op ∈ undefinedOpcodes) (b1 b2 : Byte) :
    opcodeMap op b1 b2 = .undef op := by
  unfold undefinedOpcodes at h
  fin_cases h <;> rfl

/-- And for no other byte value: the map has a row for each of the other 151. -/
theorem undefined_of_opcodeMap : ∀ op : Byte, opcodeMap op 0 0 = .undef op → op ∈ undefinedOpcodes := by
  decide +kernel

theorem undefinedByteOk_iff {c : Config} {op : Byte} :
    (Instr.undef op).undefinedByteOk c = true ↔ op ∈ undefinedOpcodes ∧ op ≠ c.opHalt ∧ op ≠ c.opDebug := by
  simp [Instr.undefinedByteOk, and_assoc]

-- From bytes to an instruction.

/-- What makes an instruction the right reading of three bytes: its opcode byte is the first, the operand bytes are those
it takes of the other two, and it is well-formed. -/
structure ReadsAs (c : Config) (op b1 b2 : Byte) (i : Instr) : Prop where
  opcode : opcodeOf c i = some op
  wellFormed : i.wellFormed c = true
  operands : i.operandBytes <+: [b1, b2]

/-- The operand bytes of an absolute form are the two bytes the map puts together (R104). -/
theorem word_bytes_begin (b1 b2 : Byte) : [lowByte (word b2 b1), highByte (word b2 b1)] <+: [b1, b2] := by simp

/-- Each row of the opcode map is the right reading of its byte (R105). -/
theorem opcodeMap_readsAs {op : Byte} (h : op ∉ undefinedOpcodes) (c : Config) (b1 b2 : Byte) :
    ReadsAs c op b1 b2 (opcodeMap op b1 b2) := by
  have documented := mt (undefined_of_opcodeMap op) h
  revert documented
  unfold opcodeMap
  split
  case h_152 => -- the row of every other byte
    exact fun documented => absurd rfl documented
  all_goals
    refine fun _ => ⟨rfl, rfl, ?_⟩
    first | exact ⟨[b1, b2], rfl⟩ | exact ⟨[b2], rfl⟩ | exact word_bytes_begin b1 b2

-- The order of the decoder's checks (R106).

theorem decodeOp_opHalt (c : Config) (b1 b2 : Byte) : decodeOp c c.opHalt b1 b2 = .halt := by
  simp [decodeOp]

theorem decodeOp_opDebug {c : Config} (h : c.opDebug ≠ c.opHalt) (b1 b2 : Byte) :
    decodeOp c c.opDebug b1 b2 = .debug b1 := by
  simp [decodeOp, h]

theorem decodeOp_other {c : Config} {op : Byte} (hh : op ≠ c.opHalt) (hd : op ≠ c.opDebug) (b1 b2 : Byte) :
    decodeOp c op b1 b2 = opcodeMap op b1 b2 := by
  simp [decodeOp, hh, hd]

/-- A simulator opcode hides no documented instruction (R107). -/
theorem ne_simulator_of_documented {c : Config} (valid : c.simulatorOpcodesValid) {op : Byte}
    (h : op ∉ undefinedOpcodes) : op ≠ c.opHalt ∧ op ≠ c.opDebug :=
  have ⟨haltUndefined, debugUndefined, _⟩ := valid
  ⟨fun e => h (e ▸ haltUndefined), fun e => h (e ▸ debugUndefined)⟩

/-- Settles O5: each clause is the decoder's own branch, and the last the opcode map's row. -/
theorem decodingOrder : Obligations.DecodingOrder := by
  intro c op b1 b2
  refine ⟨?_, fun valid => ne_simulator_of_documented valid⟩
  split_ifs with hh hd hu
  · rw [hh, decodeOp_opHalt]
  · rw [hd, decodeOp_opDebug (hd ▸ hh)]
  · rw [decodeOp_other hh hd, opcodeMap_of_undefined hu]
  · rw [decodeOp_other hh hd]
    have reads := opcodeMap_readsAs hu c b1 b2
    exact ⟨reads.opcode, reads.wellFormed⟩

/-- Whatever the byte, what the decoder makes of it is its right reading. -/
theorem decodeOp_readsAs (c : Config) (op b1 b2 : Byte) :
    ReadsAs c op b1 b2 (decodeOp c op b1 b2) := by
  by_cases hh : op = c.opHalt
  · rw [hh, decodeOp_opHalt]
    exact ⟨rfl, rfl, [b1, b2], rfl⟩
  by_cases hd : op = c.opDebug
  · rw [hd, decodeOp_opDebug (hd ▸ hh)]
    exact ⟨rfl, rfl, [b2], rfl⟩
  rw [decodeOp_other hh hd]
  by_cases hu : op ∈ undefinedOpcodes
  · rw [opcodeMap_of_undefined hu]
    have ok := undefinedByteOk_iff.mpr ⟨hu, hh, hd⟩
    exact ⟨if_pos ok, ok, [b1, b2], rfl⟩
  · exact opcodeMap_readsAs hu c b1 b2

-- From an instruction to bytes and back.

/-- The row of the opcode map at an instruction's opcode byte, filled with its operand bytes, is the instruction: the
encodings of the instruction rules and the map of R105 agree. -/
theorem opcodeMap_opcodeOf {c : Config} {i : Instr} {op : Byte} (h : opcodeOf c i = some op)
    (hh : i ≠ .halt) (hd : ∀ sel, i ≠ .debug sel) :
    opcodeMap op (i.operandBytes.getD 0 0) (i.operandBytes.getD 1 0) = i := by
  revert h
  fun_cases opcodeOf c i
  case case173 u ok => -- UNDEF of an undefined byte
    rintro ⟨⟩
    obtain ⟨hu, -⟩ := undefinedByteOk_iff.mp ok
    exact opcodeMap_of_undefined hu _ _
  case case175 => exact absurd rfl hh -- HALT
  case case176 sel => exact absurd rfl (hd sel) -- DEBUG
  all_goals rintro ⟨⟩
  all_goals try rfl
  -- What is left are the forms with a word, which their two bytes give back.
  all_goals
    rename_i w
    conv_rhs => rw [← word_high_low w]
    rfl

/-- An opcode byte that is not HALT's or DEBUG's is not taken for one of theirs. -/
theorem ne_simulator_of_opcodeOf {c : Config} (valid : c.simulatorOpcodesValid) {i : Instr} {op : Byte}
    (h : opcodeOf c i = some op) (hh : i ≠ .halt) (hd : ∀ sel, i ≠ .debug sel) :
    op ≠ c.opHalt ∧ op ≠ c.opDebug := by
  by_cases hu : op ∈ undefinedOpcodes
  · have hi : i = .undef op := (opcodeMap_opcodeOf h hh hd).symm.trans (opcodeMap_of_undefined hu _ _)
    have ok : (Instr.undef op).undefinedByteOk c = true := by
      by_contra no
      simp [hi, opcodeOf, no] at h
    exact (undefinedByteOk_iff.mp ok).2
  · exact ne_simulator_of_documented valid hu

/-- The decoder, given an instruction's opcode byte and operand bytes, answers the instruction. -/
theorem decodeOp_opcodeOf {c : Config} (valid : c.simulatorOpcodesValid) {i : Instr} {op : Byte}
    (h : opcodeOf c i = some op) :
    decodeOp c op (i.operandBytes.getD 0 0) (i.operandBytes.getD 1 0) = i := by
  by_cases hh : i = .halt
  · subst hh
    cases h
    exact decodeOp_opHalt c _ _
  by_cases hd : ∃ sel, i = .debug sel
  · obtain ⟨sel, rfl⟩ := hd
    cases h
    obtain ⟨-, -, distinct⟩ := valid
    exact decodeOp_opDebug distinct.symm _ _
  have hd : ∀ sel, i ≠ .debug sel := not_exists.mp hd
  obtain ⟨neHalt, neDebug⟩ := ne_simulator_of_opcodeOf valid h hh hd
  rw [decodeOp_other neHalt neDebug]
  exact opcodeMap_opcodeOf h hh hd

/-- How a list of bytes is read: as many operand bytes as the opcode byte asks for, and the rest left over (R101). -/
theorem decode_operands {c : Config} {op : Byte} {bs : List Byte} (hl : opcodeLength c op = 1 + bs.length)
    (rest : List Byte) :
    decode c (op :: bs ++ rest) = .ok (decodeOp c op (bs.getD 0 0) (bs.getD 1 0), rest) := by
  match bs with
  | [] => simp [decode, hl]
  | [b1] => simp [decode, hl]
  | [b1, b2] => simp [decode, hl]
  | _ :: _ :: _ :: _ =>
    have := opcodeLength_range c op
    simp only [List.length_cons] at hl
    omega

/-- Settles O3: the encoding is the opcode byte and the operand bytes, the opcode byte asks for exactly those, and with
them the decoder answers the instruction. -/
theorem decodeInvertsEncode : Obligations.DecodeInvertsEncode := by
  intro c i rest valid wf
  obtain ⟨op, hop, henc, -⟩ := Laws.encodes i c wf
  have back := decodeOp_opcodeOf valid hop
  have hl : opcodeLength c op = 1 + i.operandBytes.length := by
    rw [← decodeOp_length c op (i.operandBytes.getD 0 0) (i.operandBytes.getD 1 0), back, Instr.length]
  refine ⟨by rw [henc, Instr.length, List.length_cons, Nat.add_comm], ?_⟩
  rw [henc, decode_operands hl, back]

/-- Settles O4: what the decoder makes of the bytes is their right reading, so the bytes are its encoding and a rest, and
decoding inverts encoding (O3). -/
theorem encodeInvertsDecode : Obligations.EncodeInvertsDecode := by
  intro c op b1 b2 valid
  obtain ⟨hop, wf, rest, hrest⟩ := decodeOp_readsAs c op b1 b2
  have bytes : encode c (decodeOp c op b1 b2) ++ rest = [op, b1, b2] := by
    simp only [encode, hop, List.cons_append, hrest]
  obtain ⟨-, back⟩ := decodeInvertsEncode c _ rest valid wf
  exact ⟨_, rest, bytes ▸ back, wf, bytes⟩

/-- Settles O1: the decoder run on each of the words. -/
theorem writtenOutWordsDecode : Obligations.WrittenOutWordsDecode :=
  ⟨rfl, rfl, rfl, rfl, rfl, rfl, rfl, rfl, rfl, rfl, rfl, rfl, rfl, rfl, rfl, rfl, rfl, rfl⟩

end Sys2Proof.Machine
end

section
/-!
O6 to O10. The ALU: the signed reading of a byte and what does not fit in it, the complement, packed decimal, and the
nine-bit ring of a byte and the carry (40_alu.md).
-/

namespace Sys2Proof.Machine

-- Binary (R141, R143).

theorem signedOverflow_eq (sv : Int) : signedOverflow sv = decide (sv < -128 ∨ 127 < sv) :=
  (Bool.decide_or _ _).symm

/-- A signed value overflows exactly where the byte it is cut to is read as another value. -/
theorem signedOverflow_eq_toInt_ne (sv : Int) : signedOverflow sv = decide ((BitVec.ofInt 8 sv).toInt ≠ sv) := by
  rw [signedOverflow_eq, BitVec.toInt_ofInt]
  exact decide_eq_decide.mpr (by simp only [Int.bmod_def]; omega)

/-- The borrow of a subtraction is the carry's complement. -/
theorem borrow_eq (c : Bool) : (1 - bitNat c : Int) = if c then 0 else 1 := by cases c <;> rfl

theorem noBorrow_iff (x y : Nat) (c : Bool) :
    (0 : Int) ≤ x - y - (1 - bitNat c) ↔ y + (if c then 0 else 1) ≤ x := by
  rw [borrow_eq]
  split_ifs <;> omega

section
variable (a b : Byte) (c : Bool)

theorem addBinary_r : (addBinary a b c).r = a + b + (if c then 1 else 0) := by
  simp only [addBinary, BitVec.ofNat_add, BitVec.ofNat_toNat, BitVec.setWidth_eq]
  cases c <;> rfl

/-- The result byte of the unsigned sum is that of the signed sum. -/
theorem addBinary_r_signed : (addBinary a b c).r = BitVec.ofInt 8 (a.toInt + b.toInt + bitNat c) := by
  simp only [addBinary, BitVec.ofNat_add, BitVec.ofNat_toNat, BitVec.setWidth_eq, BitVec.ofInt_add,
    BitVec.ofInt_toInt, BitVec.ofInt_natCast]

theorem addBinary_v :
    (addBinary a b c).flags.v = some (decide ((addBinary a b c).r.toInt ≠ a.toInt + b.toInt + bitNat c)) := by
  rw [addBinary_r_signed, ← signedOverflow_eq_toInt_ne]
  rfl

theorem toInt_not_byte : (~~~b).toInt = -1 - b.toInt := by
  have := b.isLt
  simp only [BitVec.toInt_eq_toNat_cond, BitVec.toNat_not]
  split_ifs <;> omega

/-- Taking `b` and the borrow away is adding the complement of `b` and the carry (R143). -/
theorem subBinary_eq_addBinary_not : subBinary a b c = addBinary a (~~~b) c := by
  have hb := b.isLt
  have unsigned : ((a.toNat + (~~~b).toNat + bitNat c : Nat) : Int) = a.toNat - b.toNat - (1 - bitNat c) + 256 := by
    rw [BitVec.toNat_not]
    omega
  have signed : a.toInt + (~~~b).toInt + bitNat c = a.toInt - b.toInt - (1 - bitNat c) := by
    rw [toInt_not_byte]
    omega
  have result : BitVec.ofNat 8 (a.toNat + (~~~b).toNat + bitNat c) =
      BitVec.ofInt 8 (a.toNat - b.toNat - (1 - bitNat c)) := by
    rw [← BitVec.ofInt_natCast, unsigned, BitVec.ofInt_add]
    exact BitVec.add_zero _
  have carry : 255 < a.toNat + (~~~b).toNat + bitNat c ↔ 0 ≤ (a.toNat - b.toNat - (1 - bitNat c) : Int) := by
    omega
  simp only [subBinary, addBinary, result, signed, carry]

theorem subBinary_r : (subBinary a b c).r = a - b - (if c then 0 else 1) := by
  have complement : ~~~b = -b - 1 := BitVec.not_eq_neg_add b
  rw [subBinary_eq_addBinary_not, addBinary_r, complement]
  cases c <;> simp only [if_true, Bool.false_eq_true, if_false] <;> ring

theorem subBinary_c :
    (subBinary a b c).flags.c = some (decide (b.toNat + (if c then 0 else 1) ≤ a.toNat)) := by
  simp only [subBinary, noBorrow_iff]

theorem subBinary_v :
    (subBinary a b c).flags.v =
      some (decide ((subBinary a b c).r.toInt ≠ a.toInt - b.toInt - (if c then 0 else 1))) := by
  have signed : a.toInt + (~~~b).toInt + bitNat c = a.toInt - b.toInt - (if c then 0 else 1) := by
    rw [toInt_not_byte, ← borrow_eq]
    omega
  rw [subBinary_eq_addBinary_not, addBinary_v, signed]

end

/-- Settles O6: the overflow is that of `addBinary_v`, the rest the sum cut to a byte. -/
theorem binaryAdd : Obligations.BinaryAdd := by
  intro a b c
  refine ⟨addBinary_r a b c, rfl, rfl, rfl, ?_⟩
  rw [addBinary_v]
  cases c <;> rfl

/-- Settles O7, by the addition of the complement. -/
theorem binarySubtract : Obligations.BinarySubtract :=
  fun a b c => ⟨subBinary_r a b c, rfl, rfl, subBinary_c a b c, subBinary_v a b c, subBinary_eq_addBinary_not a b c⟩

/-- Settles O9: a compare is the subtraction without borrow, whose result byte is zero exactly on equality. -/
theorem Alu.compare : Obligations.Compare := by
  intro a b
  have difference : (subBinary a b true).r = a - b := (subBinary_r a b true).trans (sub_zero _)
  refine ⟨?_, ?_, ?_, rfl, rfl, ?_, rfl⟩
  · exact (congrArg (fun r : Byte => some r.msb) difference).symm
  · exact (congrArg (fun r : Byte => some (r == 0)) difference).symm
  · exact (subBinary_c a b true).symm
  · simp only [aluCmp, beq_eq_decide]
    exact congrArg some (decide_eq_decide.mpr sub_eq_zero)

-- Packed decimal (R142, R144).

section
variable {n : Nat} (h : n < 100)
include h

theorem toNat_packBcd : (packBcd n).toNat = 16 * (n / 10) + n % 10 := by
  simp only [packBcd, BitVec.toNat_ofNat]
  omega

/-- The two hexadecimal digits of a packed number are decimal digits. -/
theorem packBcd_digits : (packBcd n).toNat / 16 ≤ 9 ∧ (packBcd n).toNat % 16 ≤ 9 := by
  rw [toNat_packBcd h]
  omega

theorem decOf_packBcd : decOf (packBcd n) = n := by
  rw [decOf, toNat_packBcd h]
  omega

end

theorem toNat_emod_hundred_lt (d : Int) : (d % 100).toNat < 100 := by omega

/-- The last two digits of a sum, packed. -/
theorem toNat_packBcd_mod (n : Nat) : (packBcd (n % 100)).toNat = 16 * (n % 100 / 10) + n % 10 := by
  rw [toNat_packBcd (Nat.mod_lt n (by decide))]
  omega

/-- And of a difference, which may be negative. -/
theorem toNat_packBcd_emod (d : Int) : ((packBcd (d % 100).toNat).toNat : Int) = 16 * (d % 100 / 10) + d % 10 := by
  rw [toNat_packBcd (toNat_emod_hundred_lt d)]
  omega

/-- Settles O8: on packed numbers `decOf` undoes `packBcd`; whatever the bytes, a number below 100 is packed. -/
theorem decimalArithmetic : Obligations.DecimalArithmetic := by
  refine ⟨fun x y c hx hy => ?_, ?_⟩
  · have difference :
        (((x : Int) - y - (1 - bitNat c)) % 100).toNat = (x + 100 - y - (if c then 0 else 1)) % 100 := by
      rw [borrow_eq]
      split_ifs <;> omega
    simp only [addDecimal, subDecimal, decOf_packBcd hx, decOf_packBcd hy, difference, noBorrow_iff]
    exact ⟨rfl, rfl, trivial, trivial⟩
  · rintro o a b c (rfl | rfl)
    · obtain ⟨tens, ones⟩ := packBcd_digits (Nat.mod_lt (decOf a + decOf b + bitNat c) (by decide : 0 < 100))
      exact ⟨tens, ones, rfl, rfl, rfl⟩
    · obtain ⟨tens, ones⟩ := packBcd_digits (toNat_emod_hundred_lt (decOf a - decOf b - (1 - bitNat c)))
      exact ⟨tens, ones, rfl, rfl, rfl⟩

-- Rotates (R150, R151): a byte and the carry are a ring of nine bits.

/-- The bits of the ring, the carry above bit 7. -/
def ringBit (p : Byte × Bool) (k : Fin 9) : Bool := if k = 8 then p.2 else p.1.getLsbD k

theorem eq_of_ringBit {p q : Byte × Bool} (h : ∀ k, ringBit p k = ringBit q k) : p = q := by
  refine Prod.ext (BitVec.eq_of_getLsbD_eq fun i hi => ?_) (h 8)
  have ne : (⟨i, by omega⟩ : Fin 9) ≠ 8 := by simp [Fin.ext_iff]; omega
  simpa [ringBit, ne] using h ⟨i, by omega⟩

theorem ofNat_bitNat (c : Bool) : BitVec.ofNat 8 (bitNat c) = (BitVec.ofBool c).setWidth 8 := by cases c <;> rfl

/-- `rol` on a byte and the carry. -/
def rolRing (p : Byte × Bool) : Byte × Bool := ((aluRol p.1 p.2).r, (aluRol p.1 p.2).flags.c.getD p.2)

/-- `ror` on a byte and the carry. -/
def rorRing (p : Byte × Bool) : Byte × Bool := ((aluRor p.1 p.2).r, (aluRor p.1 p.2).flags.c.getD p.2)

theorem ringBit_rolRing (p : Byte × Bool) (k : Fin 9) : ringBit (rolRing p) k = ringBit p (k - 1) := by
  have below : (-1 : Fin 9) = 8 := rfl
  fin_cases k <;> simp [ringBit, rolRing, aluRol, withNZC, ofNat_bitNat, below]

theorem ringBit_rorRing (p : Byte × Bool) (k : Fin 9) : ringBit (rorRing p) k = ringBit p (k + 1) := by
  fin_cases k <;> simp [ringBit, rorRing, aluRor, withNZC, ofNat_bitNat]

theorem ringBit_iterate_rolRing (n : Nat) (p : Byte × Bool) (k : Fin 9) :
    ringBit (rolRing^[n] p) k = ringBit p (k - n • 1) := by
  induction n generalizing p with
  | zero => simp
  | succ n ih => rw [Function.iterate_succ_apply, ih, ringBit_rolRing, sub_sub, succ_nsmul]

/-- Settles O10: ROL turns the ring by one, ROR back by one, and nine turns are the whole ring. -/
theorem rotatesThroughCarry : Obligations.RotatesThroughCarry := by
  intro p
  refine ⟨eq_of_ringBit fun k => ?_, eq_of_ringBit fun k => ?_, eq_of_ringBit fun k => ?_⟩
  · exact (ringBit_rorRing (rolRing p) k).trans ((ringBit_rolRing p (k + 1)).trans (by rw [add_sub_cancel_right]))
  · exact (ringBit_rolRing (rorRing p) k).trans ((ringBit_rorRing p (k - 1)).trans (by rw [sub_add_cancel]))
  · exact (ringBit_iterate_rolRing 9 p k).trans (by rw [show 9 • (1 : Fin 9) = 0 from rfl, sub_zero])

end Sys2Proof.Machine
end

section
/-!
O19 to O22. The instructions on the accumulator and the compares (43_arith_logic.md): what one operation with a source
operand writes and leaves, once for all of them, then the values and flags from the ALU.
-/

namespace Sys2Proof.Machine

-- Frames.

theorem flag_of_applyFlags {s t : State} {o : FlagOut} (hp : t.p = applyFlags s.p o) (f : Flag) :
    t.flag f = (o.get f).getD (s.flag f) := by
  rw [State.flag, hp, flag_applyFlags_get]
  rfl

/-- A write-back changes no flag but those the operation defines (40_alu.md R152). -/
theorem FlagsKeptBut.of_applyFlags {s t : State} {o : FlagOut} {written : List Flag} (hp : t.p = applyFlags s.p o)
    (undefined : ∀ f, f ∉ written → o.get f = none) : FlagsKeptBut written s t := by
  refine ⟨fun f hf => ?_, by rw [hp, flagX_applyFlags]⟩
  rw [flag_of_applyFlags hp, undefined f hf, Option.getD_none]

theorem LeavesWorld.load (o : Src) (s : State) : LeavesWorld s (load o s).2 (load o s).2 where
  background := by constructor <;> simp
  halted := load_halted s o
  memory a := by simp [State.memByte]
  acia := rfl
  events := rfl
  tick := rfl

/-- What follows the accesses may change registers, pc and the cycles. -/
theorem LeavesWorld.congr {s u t t' : State} (h : LeavesWorld s u t) (hb : SameBackground t t')
    (hh : t'.halted = t.halted) (hm : t'.mem = t.mem) (ha : t'.acia = t.acia) (he : t'.events = t.events)
    (ht : t'.tick = t.tick) : LeavesWorld s u t' where
  background := h.background.trans hb
  halted := hh.trans h.halted
  memory a := by rw [← h.memory a, State.memByte, State.memByte, hm]
  acia := ha.trans h.acia
  events := he.trans h.events
  tick := ht.trans h.tick

/-- `t` is where an operation with source `o` that answers `out` leads from `s`: A takes the result, P the flags
`out` defines, and nothing else changes but what the load's own accesses did (R230 to R234). -/
structure Accumulates (out : AluOut) (o : Src) (s t : State) : Prop where
  a : t.a = out.r
  x : t.x = s.x
  y : t.y = s.y
  sp : t.sp = s.sp
  p : t.p = applyFlags s.p out.flags
  advanced : Advanced (srcLength o) (srcCycles o) s t
  world : LeavesWorld s (load o s).2 t

theorem accumulate_accumulates (f : Byte → AluOut) (o : Src) (s : State) :
    ∃ t, accumulate f o s = .next t ∧ Accumulates (f (load o s).1) o s t := by
  refine ⟨_, rfl, ?_⟩
  constructor
  case world => exact (LeavesWorld.load o s).congr (by constructor <;> rfl) rfl rfl rfl rfl rfl
  case advanced => exact ⟨by simp, by simp⟩
  all_goals simp

/-- An operation that defines N and Z alone. -/
theorem accumulate_withNZ (g : Byte → Byte) (o : Src) (s : State) :
    ∃ t, accumulate (fun v => withNZ (g v)) o s = .next t ∧ t.a = g (load o s).1 ∧ t.x = s.x ∧ t.y = s.y ∧
      t.sp = s.sp ∧ NZFrom (g (load o s).1) s t ∧ Advanced (srcLength o) (srcCycles o) s t ∧
      LeavesWorld s (load o s).2 t := by
  obtain ⟨t, ht, h⟩ := accumulate_accumulates (fun v => withNZ (g v)) o s
  exact ⟨t, ht, h.a, h.x, h.y, h.sp, NZFrom.of_applyFlags rfl h.p, h.advanced, h.world⟩

/-- Settles O21: each of the three defines N and Z alone. -/
theorem logicOnTheAccumulator : Obligations.LogicOnTheAccumulator :=
  fun o s =>
    ⟨accumulate_withNZ (s.a &&& ·) o s, accumulate_withNZ (s.a ||| ·) o s, accumulate_withNZ (s.a ^^^ ·) o s⟩

/-- A compare writes N, Z and C alone (R235 to R237). -/
theorem compare_spec (r : Byte) (o : Src) (s : State) :
    ∃ t, compare r o s = .next t ∧ t.a = s.a ∧ t.x = s.x ∧ t.y = s.y ∧ t.sp = s.sp ∧
      NZCFrom (r - (load o s).1) (decide ((load o s).1 ≤ r)) s t ∧ Advanced (srcLength o) (srcCycles o) s t ∧
      LeavesWorld s (load o s).2 t := by
  refine ⟨_, rfl, by simp, by simp, by simp, by simp, ?_, ⟨by simp, by simp⟩, ?_⟩
  · exact NZCFrom.of_applyFlags (load_p s o) rfl
  · exact (LeavesWorld.load o s).congr (by constructor <;> rfl) rfl rfl rfl rfl rfl

/-- Settles O22: one compare for each register. -/
theorem compares : Obligations.Compares :=
  fun o s => ⟨compare_spec s.a o s, compare_spec s.x o s, compare_spec s.y o s⟩

-- ADC and SBC: D selects how the digits of the operands are read (40_alu.md R145).

/-- An operation that defines N, Z and C, and V unless `d` holds. -/
theorem accumulate_nzcv {f : Byte → AluOut} {o : Src} {s : State} {c d v : Bool}
    (hn : (f (load o s).1).flags.n = some (f (load o s).1).r.msb)
    (hz : (f (load o s).1).flags.z = some ((f (load o s).1).r == 0)) (hc : (f (load o s).1).flags.c = some c)
    (hv : (f (load o s).1).flags.v = if d then none else some v) :
    ∃ t, accumulate f o s = .next t ∧ t.a = (f (load o s).1).r ∧ t.x = s.x ∧ t.y = s.y ∧ t.sp = s.sp ∧
      t.flag .n = t.a.msb ∧ t.flag .z = (t.a == 0) ∧ t.flag .c = c ∧ t.flag .v = (if d then s.flag .v else v) ∧
      FlagsKeptBut [.n, .z, .c, .v] s t ∧ Advanced (srcLength o) (srcCycles o) s t ∧
      LeavesWorld s (load o s).2 t := by
  obtain ⟨t, ht, h⟩ := accumulate_accumulates f o s
  have kept : FlagsKeptBut [.n, .z, .c, .v] s t := by
    refine FlagsKeptBut.of_applyFlags h.p fun g hg => ?_
    cases g with
    | b | d | i => rfl
    | n | z | c | v => simp at hg
  refine ⟨t, ht, h.a, h.x, h.y, h.sp, ?_, ?_, ?_, ?_, kept, h.advanced, h.world⟩ <;>
    rw [flag_of_applyFlags h.p, FlagOut.get]
  · rw [hn, h.a, Option.getD_some]
  · rw [hz, h.a, Option.getD_some]
  · rw [hc, Option.getD_some]
  · rw [hv]
    split_ifs <;> rfl

/-- The sum before it is cut to a byte. -/
def sumOf (d : Bool) (a b : Byte) (c : Bool) : Nat :=
  if d then decOf a + decOf b + bitNat c else a.toNat + b.toNat + bitNat c

/-- The difference before it is cut to a byte. -/
def diffOf (d : Bool) (a b : Byte) (c : Bool) : Int :=
  if d then (decOf a : Int) - decOf b - (1 - bitNat c) else (a.toNat : Int) - b.toNat - (1 - bitNat c)

section
variable (d : Bool) (a b : Byte) (c : Bool)

theorem toNat_aluAdd_r : (aluAdd d a b c).r.toNat =
    if d then 16 * (sumOf d a b c % 100 / 10) + sumOf d a b c % 10 else sumOf d a b c % 256 := by
  cases d with
  | false => exact BitVec.toNat_ofNat _ _
  | true => exact toNat_packBcd_mod _

theorem aluAdd_n : (aluAdd d a b c).flags.n = some (aluAdd d a b c).r.msb := by cases d <;> rfl

theorem aluAdd_z : (aluAdd d a b c).flags.z = some ((aluAdd d a b c).r == 0) := by cases d <;> rfl

theorem aluAdd_c : (aluAdd d a b c).flags.c = some (decide ((if d then 100 else 256) ≤ sumOf d a b c)) := by
  cases d <;> rfl

theorem aluAdd_v : (aluAdd d a b c).flags.v =
    if d then none else some (decide (a.toInt + b.toInt + bitNat c < -128 ∨ 127 < a.toInt + b.toInt + bitNat c)) := by
  cases d with
  | false => exact congrArg some (signedOverflow_eq _)
  | true => rfl

theorem toNat_aluSub_r : ((aluSub d a b c).r.toNat : Int) =
    if d then 16 * (diffOf d a b c % 100 / 10) + diffOf d a b c % 10 else diffOf d a b c % 256 := by
  cases d with
  | false =>
    refine (congrArg Int.ofNat (BitVec.toNat_ofInt _)).trans (Int.toNat_of_nonneg ?_)
    exact Int.emod_nonneg _ (by decide)
  | true => exact toNat_packBcd_emod _

theorem aluSub_n : (aluSub d a b c).flags.n = some (aluSub d a b c).r.msb := by cases d <;> rfl

theorem aluSub_z : (aluSub d a b c).flags.z = some ((aluSub d a b c).r == 0) := by cases d <;> rfl

theorem aluSub_c : (aluSub d a b c).flags.c = some (decide (0 ≤ diffOf d a b c)) := by cases d <;> rfl

theorem aluSub_v : (aluSub d a b c).flags.v =
    if d then none else some (decide (a.toInt - b.toInt - (1 - bitNat c) < -128 ∨
      127 < a.toInt - b.toInt - (1 - bitNat c))) := by
  cases d with
  | false => exact congrArg some (signedOverflow_eq _)
  | true => rfl

end

/-- Settles O19: the result, the carry and the overflow are those of the ALU in either mode. -/
theorem adcAddsWithCarry : Obligations.AdcAddsWithCarry := by
  intro o s v c sum
  obtain ⟨t, ht, ha, rest⟩ := accumulate_nzcv (f := fun v => aluAdd (s.flag .d) s.a v (s.flag .c)) (o := o)
    (aluAdd_n ..) (aluAdd_z ..) (aluAdd_c ..) (aluAdd_v ..)
  exact ⟨t, ht, ha ▸ toNat_aluAdd_r .., rest⟩

/-- Settles O20: likewise, with the borrow as the carry's complement. -/
theorem sbcSubtractsWithBorrow : Obligations.SbcSubtractsWithBorrow := by
  intro o s
  simp only [← borrow_eq]
  obtain ⟨t, ht, ha, rest⟩ := accumulate_nzcv (f := fun v => aluSub (s.flag .d) s.a v (s.flag .c)) (o := o)
    (aluSub_n ..) (aluSub_z ..) (aluSub_c ..) (aluSub_v ..)
  exact ⟨t, ht, ha ▸ toNat_aluSub_r .., rest⟩

end Sys2Proof.Machine
end

section
/-!
O11, O29. Effective addresses, pointers and branch targets as numbers (41_addressing.md R174 to R183), and the jump
through a pointer (45_control_flow.md R299).
-/

namespace Sys2Proof.Machine

-- Bytes as addresses (00_scope.md R9).

theorem toNat_zext (b : Byte) : (zext b).toNat = b.toNat := BitVec.toNat_setWidth_of_le (by decide)

theorem ofNat_toNat_byte (b : Byte) : BitVec.ofNat 16 b.toNat = zext b := BitVec.ofNat_toNat 16 b

/-- An index is added without a carry out of the 64 KB space (R177, R178). -/
theorem toNat_add_zext (w : Addr) (b : Byte) : (w + zext b).toNat = (w.toNat + b.toNat) % 65536 := by
  rw [BitVec.toNat_add, toNat_zext]

theorem addr_succ_eq_ofNat (w : Addr) : w + 1 = BitVec.ofNat 16 ((w.toNat + 1) % 65536) := by
  apply BitVec.eq_of_toNat_eq
  rw [BitVec.toNat_add, BitVec.toNat_ofNat, Nat.mod_mod]
  rfl

-- Pointers, low byte first.

/-- A pointer in page zero, by the numbers of the two addresses it is read from (R181, R182). -/
theorem readWordZP_of_toNat {z : Byte} {first second : Nat} (hfirst : z.toNat = first)
    (hsecond : (z + 1).toNat = second) (s : State) :
    let lo := memRead .instruction (BitVec.ofNat 16 first) s
    let hi := memRead .instruction (BitVec.ofNat 16 second) lo.2
    (readWordZP z s).1.toNat = 256 * hi.1.toNat + lo.1.toNat ∧ (readWordZP z s).2 = hi.2 := by
  subst hfirst hsecond
  rw [ofNat_toNat_byte, ofNat_toNat_byte]
  exact ⟨toNat_word _ _, rfl⟩

/-- A pointer anywhere: the second address wraps within 64 KB (R180). -/
theorem memRead2_eq (a : Accessor) (w : Addr) (s : State) :
    let lo := memRead a w s
    let hi := memRead a (BitVec.ofNat 16 ((w.toNat + 1) % 65536)) lo.2
    (memRead2 a w s).1.toNat = 256 * hi.1.toNat + lo.1.toNat ∧ (memRead2 a w s).2 = hi.2 := by
  rw [← addr_succ_eq_ofNat]
  exact ⟨toNat_word _ _, rfl⟩

-- Branch targets (R183).

/-- The offset is signed, and the sum wraps within 64 KB. -/
theorem branchTarget_eq_ofInt (pc : Addr) (off : Byte) :
    branchTarget pc off = BitVec.ofInt 16 ((pc.toNat : Int) + 2 + off.toInt) := by
  rw [BitVec.ofInt_add, BitVec.ofInt_add, BitVec.ofInt_natCast, BitVec.ofNat_toNat, BitVec.setWidth_eq]
  rfl

theorem toNat_branchTarget (pc : Addr) (off : Byte) :
    ((branchTarget pc off).toNat : Int) = ((pc.toNat : Int) + 2 + off.toInt) % 65536 := by
  rw [branchTarget_eq_ofInt, BitVec.toNat_ofInt]
  exact Int.toNat_of_nonneg (Int.emod_nonneg _ (by decide))

/-- Settles O11, mode by mode: an indexed zero page address is a sum of bytes, a pointer two reads in page zero. -/
theorem effectiveAddressOfEachMode : Obligations.EffectiveAddressOfEachMode := by
  intro s z w pc off
  have sum (b : Byte) : (z + b).toNat = (z.toNat + b.toNat) % 256 := BitVec.toNat_add z b
  have next : (z + s.x + 1).toNat = (z.toNat + s.x.toNat + 1) % 256 := by
    rw [BitVec.toNat_add, sum]
    exact Nat.mod_add_mod _ _ _
  obtain ⟨base, reads⟩ := readWordZP_of_toNat rfl (sum 1) s
  refine ⟨⟨toNat_zext z, rfl⟩, ⟨?_, rfl⟩, ⟨?_, rfl⟩, ⟨rfl, rfl⟩, ⟨toNat_add_zext w s.x, rfl⟩,
    ⟨toNat_add_zext w s.y, rfl⟩, readWordZP_of_toNat (sum s.x) next s, ⟨?_, reads⟩, toNat_branchTarget pc off⟩
  · exact (toNat_zext _).trans (sum s.x)
  · exact (toNat_zext _).trans (sum s.y)
  · exact (toNat_add_zext _ s.y).trans (congrArg (fun n => (n + s.y.toNat) % 65536) base)

-- The frame of reads.

theorem LeavesWorld.refl (s : State) : LeavesWorld s s s :=
  ⟨SameBackground.refl s, rfl, fun _ => rfl, rfl, rfl, rfl⟩

/-- One read more. -/
theorem LeavesWorld.read {s u : State} (h : LeavesWorld s u u) (w : Accessor) (a : Addr) :
    LeavesWorld s (memRead w a u).2 (memRead w a u).2 where
  background := h.background.trans (by constructor <;> rfl)
  halted := h.halted
  memory := h.memory
  acia := rfl
  events := rfl
  tick := rfl

theorem LeavesWorld.read2 {s u : State} (h : LeavesWorld s u u) (w : Accessor) (a : Addr) :
    LeavesWorld s (memRead2 w a u).2 (memRead2 w a u).2 := (h.read w a).read w (a + 1)

theorem LeavesWorld.jumpTo {s u t : State} (h : LeavesWorld s u t) (w : Addr) (cyc : Nat) :
    LeavesWorld s u (jumpTo w cyc t) := h.congr (by constructor <;> rfl) rfl rfl rfl rfl rfl

/-- Settles O29: the indirect form's two reads are a word read of the pointer. -/
theorem jumpAbsoluteAndIndirect : Obligations.JumpAbsoluteAndIndirect := by
  intro w s
  obtain ⟨target, reads⟩ := memRead2_eq .instruction w s
  refine ⟨rfl, _, rfl, target, by simp, by simp, by simp, by simp, by simp, by simp, ?_⟩
  rw [← reads]
  exact ((LeavesWorld.refl s).read2 .instruction w).jumpTo _ _

end Sys2Proof.Machine
end

section
/-!
O16, O17. Loads and stores (42_load_store_transfer.md R200 to R205): one lemma for the three registers of each.
-/

namespace Sys2Proof.Machine

/-- A load: what its setter makes of the registers, N and Z from the byte, and nothing else (R200 to R202). -/
theorem loadInto_spec {set : State → Byte → State} {o : Src} {s : State} {a x y : Byte}
    (hset : set (load o s).2 (load o s).1 = { (load o s).2 with a := a, x := x, y := y }) :
    ∃ t, loadInto set o s = .next t ∧ t.a = a ∧ t.x = x ∧ t.y = y ∧ t.sp = s.sp ∧
      NZFrom (load o s).1 s t ∧ Advanced (srcLength o) (srcCycles o) s t ∧ LeavesWorld s (load o s).2 t := by
  refine ⟨_, rfl, ?_⟩
  rw [hset]
  refine ⟨rfl, rfl, rfl, load_sp s o, NZFrom.of_applyFlags (load_p s o) rfl, ⟨by simp, by simp⟩, ?_⟩
  exact (LeavesWorld.load o s).congr (by constructor <;> rfl) rfl rfl rfl rfl rfl

/-- Settles O16: each setter writes its own register over those the load's accesses kept. -/
theorem loads : Obligations.Loads := by
  intro o s
  refine ⟨loadInto_spec ?_, loadInto_spec ?_, loadInto_spec ?_, fun b => load_imm b s, fun m => load_of_mem m s⟩
  · rw [← load_x s o, ← load_y s o]
    rfl
  · rw [← load_a s o, ← load_y s o]
    rfl
  · rw [← load_a s o, ← load_x s o]
    rfl

-- Writes to an effective address (41_addressing.md R185, R186).

theorem SameBackground.resolve (m : Ea) (s : State) : SameBackground s (resolve m s).2 := by constructor <;> simp

/-- A store: one write to the effective address (R203 to R205). -/
theorem storeFrom_spec (v : Byte) (m : Ea) (s : State) :
    ∃ t, storeFrom v m s = .next t ∧ t.a = s.a ∧ t.x = s.x ∧ t.y = s.y ∧ t.sp = s.sp ∧ t.p = s.p ∧
      Advanced (eaLength m) (eaStoreCycles m) s t ∧ StoresAt (resolve m s).1 v s (resolve m s).2 t := by
  refine ⟨_, rfl, by simp, by simp, by simp, by simp, by simp, ⟨by simp, by simp⟩, ?_⟩
  exact StoresAt.of_memWrite (.resolve m s) (resolve_halted s m) (resolve_mem s m) (by constructor <;> rfl)
    rfl rfl rfl rfl rfl

/-- Settles O17: one store for each register. -/
theorem stores : Obligations.Stores :=
  fun m s => ⟨storeFrom_spec s.a m s, storeFrom_spec s.x m s, storeFrom_spec s.y m s⟩

end Sys2Proof.Machine
end

section
/-!
O24, O27. Read-modify-write of memory (41_addressing.md R186): what one writes and leaves, once for all of them, then
the bytes from the ALU.
-/

namespace Sys2Proof.Machine

/-- `t` is where a read-modify-write of `m` leads from `s` when the ALU answers `out`: the result goes back to the
address the operand was read from, P takes the flags `out` defines whether the write is kept or discarded, and nothing
else changes. -/
structure ModifiesMemory (out : AluOut) (m : Ea) (s t : State) : Prop where
  a : t.a = s.a
  x : t.x = s.x
  y : t.y = s.y
  sp : t.sp = s.sp
  p : t.p = applyFlags s.p out.flags
  advanced : Advanced (eaLength m) (eaModifyCycles m) s t
  stores : StoresAt (resolve m s).1 out.r s (load (.mem m) s).2 t

theorem modifyPlace_mem (f : Byte → AluOut) (m : Ea) (s : State) :
    modifyPlace f (.mem m) s = .next (advance (eaLength m) (eaModifyCycles m)
      ((memWrite (resolve m s).1 (f (load (.mem m) s).1).r (load (.mem m) s).2).applyFlags
        (f (load (.mem m) s).1).flags)) := rfl

theorem modifyPlace_modifiesMemory (f : Byte → AluOut) (m : Ea) (s : State) :
    ∃ t, modifyPlace f (.mem m) s = .next t ∧ ModifiesMemory (f (load (.mem m) s).1) m s t := by
  have read := LeavesWorld.load (.mem m) s
  refine ⟨_, modifyPlace_mem f m s, ?_⟩
  constructor
  case stores =>
    exact StoresAt.of_memWrite read.background read.halted (load_mem s (.mem m)) (by constructor <;> rfl)
      (by simp) rfl rfl rfl rfl
  case advanced => exact ⟨by simp, by simp⟩
  all_goals simp

/-- An operation that defines N and Z alone. -/
theorem modifyMemory_withNZ (g : Byte → Byte) (m : Ea) (s : State) :
    let v := (load (.mem m) s).1
    ∃ t, modifyPlace (fun v => withNZ (g v)) (.mem m) s = .next t ∧ t.a = s.a ∧ t.x = s.x ∧ t.y = s.y ∧
      t.sp = s.sp ∧ NZFrom (g v) s t ∧ Advanced (eaLength m) (eaModifyCycles m) s t ∧
      StoresAt (resolve m s).1 (g v) s (load (.mem m) s).2 t := by
  obtain ⟨t, ht, h⟩ := modifyPlace_modifiesMemory (fun v => withNZ (g v)) m s
  exact ⟨t, ht, h.a, h.x, h.y, h.sp, NZFrom.of_applyFlags rfl h.p, h.advanced, h.stores⟩

/-- Settles O24: both define N and Z alone. -/
theorem incrementAndDecrementMemory : Obligations.IncrementAndDecrementMemory :=
  fun m s => ⟨modifyMemory_withNZ (· + 1) m s, modifyMemory_withNZ (· - 1) m s⟩

-- Shifts and rotates as numbers (40_alu.md R148 to R151).

theorem toNat_ofNat_bitNat (c : Bool) : (BitVec.ofNat 8 (bitNat c)).toNat = bitNat c := by cases c <;> rfl

theorem toNat_aluShl_r (v : Byte) : (aluShl v).r.toNat = v.toNat * 2 % 256 := by
  simp only [aluShl, withNZC, BitVec.toNat_shiftLeft, Nat.shiftLeft_eq]

theorem toNat_aluShr_r (v : Byte) : (aluShr v).r.toNat = v.toNat / 2 := by
  simp only [aluShr, withNZC, BitVec.toNat_ushiftRight, Nat.shiftRight_eq_div_pow]

/-- The carry enters at bit 0, which the shift has cleared. -/
theorem toNat_aluRol_r (v : Byte) (c : Bool) : (aluRol v c).r.toNat = (v.toNat * 2 + bitNat c) % 256 := by
  have disjoint : (v <<< 1) &&& BitVec.ofNat 8 (bitNat c) = 0 := by
    refine BitVec.eq_of_getLsbD_eq fun i _ => ?_
    rw [ofNat_bitNat]
    cases i <;> simp
  change ((v <<< 1) ||| BitVec.ofNat 8 (bitNat c)).toNat = _
  rw [← BitVec.add_eq_or_of_and_eq_zero _ _ disjoint, BitVec.toNat_add, toNat_ofNat_bitNat, BitVec.toNat_shiftLeft,
    Nat.shiftLeft_eq]
  exact Nat.mod_add_mod _ _ _

/-- The carry enters at bit 7, which the shift has cleared. -/
theorem toNat_aluRor_r (v : Byte) (c : Bool) : (aluRor v c).r.toNat = v.toNat / 2 + 128 * bitNat c := by
  have high : (BitVec.ofNat 8 (bitNat c) <<< 7).toNat = bitNat c <<< 7 := by cases c <;> rfl
  have low : v.toNat / 2 < 2 ^ 7 := by omega
  change ((v >>> 1) ||| (BitVec.ofNat 8 (bitNat c) <<< 7)).toNat = _
  rw [BitVec.toNat_or, high, BitVec.toNat_ushiftRight, Nat.shiftRight_eq_div_pow, Nat.or_comm, pow_one,
    ← Nat.shiftLeft_add_eq_or_of_lt low, Nat.shiftLeft_eq]
  omega

/-- An operation that defines N, Z and C and answers a byte with the number `n`. -/
theorem modifyMemory_withNZC {f : Byte → AluOut} {m : Ea} {s : State} {c : Bool} {n : Nat}
    (hf : f (load (.mem m) s).1 = withNZC (f (load (.mem m) s).1).r c) (hn : (f (load (.mem m) s).1).r.toNat = n) :
    ∃ (t : State) (r : Byte), modifyPlace f (.mem m) s = .next t ∧ r.toNat = n ∧
      StoresAt (resolve m s).1 r s (load (.mem m) s).2 t ∧ t.a = s.a ∧ t.x = s.x ∧ t.y = s.y ∧ t.sp = s.sp ∧
      NZCFrom r c s t ∧ Advanced (eaLength m) (eaModifyCycles m) s t := by
  obtain ⟨t, ht, h⟩ := modifyPlace_modifiesMemory f m s
  have hp := h.p
  rw [hf] at hp
  exact ⟨t, _, ht, hn, h.stores, h.a, h.x, h.y, h.sp, NZCFrom.of_applyFlags rfl hp, h.advanced⟩

/-- Settles O27: each of the four defines N, Z and C; the rotates take the old C in. -/
theorem shiftMemory : Obligations.ShiftMemory :=
  fun _ _ =>
    ⟨modifyMemory_withNZC rfl (toNat_aluShl_r _), modifyMemory_withNZC rfl (toNat_aluShr_r _),
      modifyMemory_withNZC rfl (toNat_aluRol_r _ _), modifyMemory_withNZC rfl (toNat_aluRor_r _ _)⟩

end Sys2Proof.Machine
end

section
/-!
O18. Transfers between registers (42_load_store_transfer.md R206 to R211): one lemma for the five that set N and Z.
-/

namespace Sys2Proof.Machine

/-- A transfer: what its setter makes of the registers, N and Z from the byte moved, and nothing else (R206 to R210). -/
theorem transfer_spec {set : State → Byte → State} {v : Byte} {s : State} {a x y : Byte}
    (hset : set s v = { s with a := a, x := x, y := y }) :
    ∃ t, transfer set v s = .next t ∧ t.a = a ∧ t.x = x ∧ t.y = y ∧ t.sp = s.sp ∧
      NZFrom v s t ∧ Advanced 1 2 s t ∧ LeavesWorld s s t := by
  refine ⟨_, rfl, ?_⟩
  rw [hset]
  refine ⟨rfl, rfl, rfl, rfl, NZFrom.of_applyFlags (s := s) rfl rfl, ⟨rfl, rfl⟩, ?_⟩
  exact (LeavesWorld.refl s).congr (by constructor <;> rfl) rfl rfl rfl rfl rfl

/-- Settles O18: each of the five sets its own register alone, TXS writes S without the flags. -/
theorem transfers : Obligations.Transfers :=
  fun _ =>
    ⟨transfer_spec rfl, transfer_spec rfl, transfer_spec rfl, transfer_spec rfl, transfer_spec rfl, rfl⟩

end Sys2Proof.Machine
end

section
/-!
O23, O25. BIT (43_arith_logic.md R238) and the steps of the index registers (R241 to R244).
-/

namespace Sys2Proof.Machine

theorem get_bitFlags_of_unwritten (a v : Byte) {f : Flag} (h : f ∉ [.z, .n, .v]) : (bitFlags a v).get f = none := by
  cases f with
  | c | b | d | i => rfl
  | z | n | v => simp at h

/-- Settles O23: BIT reads its operand and writes nothing but the three flags `bitFlags` defines. -/
theorem bitTestsAgainstA : Obligations.BitTestsAgainstA := by
  intro m s v
  have hp : (advance (eaLength m) (eaReadCycles m) ((load (.mem m) s).2.applyFlags (bitFlags s.a v))).p =
      applyFlags s.p (bitFlags s.a v) := by simp
  refine ⟨_, rfl, by simp, by simp, by simp, by simp, flag_of_applyFlags hp .z, flag_of_applyFlags hp .n,
    flag_of_applyFlags hp .v, ?_, ⟨by simp, by simp⟩, ?_⟩
  · exact FlagsKeptBut.of_applyFlags hp fun _ => get_bitFlags_of_unwritten s.a v
  · exact (LeavesWorld.load (.mem m) s).congr (by constructor <;> rfl) rfl rfl rfl rfl rfl

/-- A step of a register writes it as a transfer of the stepped byte would (40_alu.md R153). -/
theorem stepRegister_withNZ (set : State → Byte → State) (v : Byte) (s : State) :
    stepRegister set (withNZ v) s = transfer set v s := rfl

theorem stepRegister_spec {set : State → Byte → State} {v : Byte} {s : State} {a x y : Byte}
    (hset : set s v = { s with a := a, x := x, y := y }) :
    ∃ t, stepRegister set (withNZ v) s = .next t ∧ t.a = a ∧ t.x = x ∧ t.y = y ∧ t.sp = s.sp ∧
      NZFrom v s t ∧ Advanced 1 2 s t ∧ LeavesWorld s s t := by
  rw [stepRegister_withNZ]
  exact transfer_spec hset

/-- Settles O25: each of the four steps its own register alone. -/
theorem stepIndexRegisters : Obligations.StepIndexRegisters :=
  fun _ => ⟨stepRegister_spec rfl, stepRegister_spec rfl, stepRegister_spec rfl, stepRegister_spec rfl⟩

end Sys2Proof.Machine
end

section
/-!
O26. Shifts and rotates of the accumulator (44_shift_rotate.md R270 to R273): one lemma for the four, with the bytes as
numbers from O27's lemmas about the ALU.
-/

namespace Sys2Proof.Machine

theorem modifyPlace_acc (f : Byte → AluOut) (s : State) :
    modifyPlace f .acc s = .next (advance 1 2 (({ s with a := (f s.a).r }).applyFlags (f s.a).flags)) := rfl

/-- An operation on A that defines N, Z and C and answers a byte with the number `n`. -/
theorem modifyAcc_withNZC {f : Byte → AluOut} {s : State} {c : Bool} {n : Nat}
    (hf : f s.a = withNZC (f s.a).r c) (hn : (f s.a).r.toNat = n) :
    ∃ t, modifyPlace f .acc s = .next t ∧ t.a.toNat = n ∧ t.x = s.x ∧ t.y = s.y ∧ t.sp = s.sp ∧
      NZCFrom t.a c s t ∧ Advanced 1 2 s t ∧ LeavesWorld s s t := by
  refine ⟨_, modifyPlace_acc f s, hn, rfl, rfl, rfl, ?flags, ⟨rfl, rfl⟩, ?world⟩
  case flags => exact NZCFrom.of_applyFlags (s := s) rfl (congrArg (fun o : AluOut => applyFlags s.p o.flags) hf)
  case world => exact (LeavesWorld.refl s).congr (by constructor <;> rfl) rfl rfl rfl rfl rfl

/-- Settles O26: each of the four defines N, Z and C; the rotates take the old C in. -/
theorem shiftTheAccumulator : Obligations.ShiftTheAccumulator :=
  fun s =>
    ⟨modifyAcc_withNZC rfl (toNat_aluShl_r s.a), modifyAcc_withNZC rfl (toNat_aluShr_r s.a),
      modifyAcc_withNZC rfl (toNat_aluRol_r s.a _), modifyAcc_withNZC rfl (toNat_aluRor_r s.a _)⟩

end Sys2Proof.Machine
end

section
/-!
O28. The eight branches (45_control_flow.md R290 to R298): their common form once, by whether it is taken.
-/

namespace Sys2Proof.Machine

/-- The next state of the common form: the offset and the third cycle come in only where the branch is taken (R290). -/
theorem branch_eq (taken : Bool) (off : Byte) (s : State) :
    branch taken off s = .next { s with
      pc := BitVec.ofInt 16 ((s.pc.toNat : Int) + 2 + (if taken then off.toInt else 0))
      cycles := s.cycles + 2 + (if taken then 1 else 0) } := by
  cases taken with
  | true =>
    exact congrArg (fun w => Host.Outcome.next { s with pc := w, cycles := s.cycles + 3 })
      (branchTarget_eq_ofInt s.pc off)
  | false =>
    have next : s.pc + 2 = BitVec.ofInt 16 ((s.pc.toNat : Int) + 2 + 0) :=
      (BitVec.add_zero _).symm.trans (branchTarget_eq_ofInt s.pc 0)
    exact congrArg (fun w => Host.Outcome.next { s with pc := w, cycles := s.cycles + 2 }) next

/-- Settles O28: each branch is the common form at its own condition. -/
theorem branches : Obligations.Branches :=
  fun off s =>
    ⟨branch_eq (!s.flag .c) off s, branch_eq (s.flag .c) off s, branch_eq (!s.flag .z) off s,
      branch_eq (s.flag .z) off s, branch_eq (!s.flag .n) off s, branch_eq (s.flag .n) off s,
      branch_eq (!s.flag .v) off s, branch_eq (s.flag .v) off s⟩

end Sys2Proof.Machine
end

section
/-!
O30 to O32. Subroutine call and return (45_control_flow.md R300, R301): the frame of each, and what a pull finds above
pushed bytes.
-/

namespace Sys2Proof.Machine

/-- An address pushed high byte first (20_memory.md R74). -/
theorem pushWord_pushes (w : Addr) (s : State) :
    PushesFrom [highByte w, lowByte w] s (push (lowByte w) (push (highByte w) s))
      (push (lowByte w) (push (highByte w) s)) :=
  ((PushesFrom.nil s).push (highByte w) (by decide)).push (lowByte w) (by simp)

/-- Settles O30: the jump after the two pushes writes pc and the cycles alone. -/
theorem jsrPushesItsLastByte : Obligations.JsrPushesItsLastByte := by
  intro w s hi lo
  refine ⟨_, rfl, by simp, by simp, by simp, by simp, by simp, by simp, ?_⟩
  exact (pushWord_pushes (s.pc + 2) s).congr (by constructor <;> rfl) rfl rfl rfl rfl rfl rfl

/-- One pull more: it reads, and of the registers it moves S alone (20_memory.md R74). -/
theorem LeavesWorld.pull {s u t : State} (h : LeavesWorld s u t) :
    LeavesWorld s (pull t).2 (pull t).2 where
  background := h.background.trans (by constructor <;> rfl)
  halted := h.halted
  memory := h.memory
  acia := rfl
  events := rfl
  tick := rfl

theorem exec_rts (s : State) :
    exec .rts s = .next (jumpTo (word (pull (pull s).2).1 (pull s).1 + 1) 6 (pull (pull s).2).2) := rfl

/-- Settles O31: two pulls and a jump past the word they make. -/
theorem rtsReturnsPastThePulledAddress : Obligations.RtsReturnsPastThePulledAddress := by
  intro s lo hi
  refine ⟨_, exec_rts s, ?pc, by simp, by simp, by simp, add_assoc s.sp 1 1, by simp, by simp, ?world⟩
  case pc => exact (BitVec.toNat_add ..).trans (by rw [toNat_word]; rfl)
  case world => exact (LeavesWorld.refl s).pull.pull.jumpTo _ _

/-- A pull that comes to the `k`-th pushed byte finds it, the stack page being RAM; since the pushes, memory and the
configuration are unchanged. -/
theorem pull_of_pushes {vs : List Byte} {s u t t' : State} (h : PushesFrom vs s u t)
    (hr : s.kindAt 0x0100 = some .ram) (hc : t'.cfg = t.cfg) (hm : t'.mem = t.mem) {k : Nat} (hk : k < vs.length)
    (hsp : t'.sp + 1 = s.sp - BitVec.ofNat 8 k) : (pull t').1 = vs[k] := by
  have ram : t'.kindAt 0x0100 = some .ram := (kindAt_congr (hc.trans h.background.cfg) _).trans hr
  rw [(pull_spec ram).1, hsp, ← h.read hr hk, State.memByte, State.memByte, hm]

/-- Two pulls take back a pushed address, low byte first. -/
theorem pullWord_of_pushes {w : Addr} {s u t : State} (h : PushesFrom [highByte w, lowByte w] s u t)
    (hr : s.kindAt 0x0100 = some .ram) : word (pull (pull t).2).1 (pull t).1 = w := by
  have sp : t.sp = s.sp - 2 := h.sp
  have lo : (pull t).1 = lowByte w :=
    pull_of_pushes h hr (k := 1) rfl rfl (by simp) (by rw [sp]; bv_omega)
  have hi : (pull (pull t).2).1 = highByte w :=
    pull_of_pushes h hr (k := 0) (pull_cfg t) (pull_mem t) (by simp) (by rw [pull_sp, sp]; bv_omega)
  rw [hi, lo, word_high_low]

/-- Settles O32: RTS pulls what O30 says JSR pushed, the address of the JSR's last byte. -/
theorem rtsComesBackFromJsr : Obligations.RtsComesBackFromJsr := by
  intro w s hr
  obtain ⟨u, hu, ha, hx, hy, hp, -, -, pushes⟩ := jsrPushesItsLastByte w s
  have sp : u.sp = s.sp - 2 := pushes.sp
  refine ⟨u, _, hu, exec_rts u, ?pc, by simp [ha], by simp [hx], by simp [hy], ?sp, by simp [hp]⟩
  case pc =>
    rw [pullWord_of_pushes pushes hr]
    exact add_assoc s.pc 2 1
  case sp =>
    change u.sp + 1 + 1 = s.sp
    rw [sp]
    bv_omega

end Sys2Proof.Machine
end

section
/-!
O33, O34. RTI and BRK (45_control_flow.md R302, R303): their cycles are added to a return from an interrupt and to the
taking of one.
-/

namespace Sys2Proof.Machine

/-- A return from an interrupt pulls three bytes and stores nothing (60_exceptions.md R462). -/
theorem returnFromInterrupt_leavesWorld (s : State) :
    LeavesWorld s (pull (pull ((pull s).2.writeP (pull s).1)).2).2 (returnFromInterrupt s) :=
  have status : LeavesWorld s (pull s).2 ((pull s).2.writeP (pull s).1) :=
    (LeavesWorld.refl s).pull.congr (by constructor <;> rfl) rfl rfl rfl rfl rfl
  status.pull.pull.congr (by constructor <;> rfl) rfl rfl rfl rfl rfl

/-- Settles O33: the three pulls of a return from an interrupt, with the cycles of RTI. -/
theorem rtiPullsStatusAndAddress : Obligations.RtiPullsStatusAndAddress := by
  intro s p lo hi
  have sp : s.sp + 1 + 1 + 1 = s.sp + 3 := by bv_omega
  refine ⟨_, rfl, rfl, toNat_word _ _, by simp, by simp, by simp, sp, by simp, ?_⟩
  exact (returnFromInterrupt_leavesWorld s).congr (by constructor <;> rfl) rfl rfl rfl rfl rfl

/-- BRK's P: bits 4 and 2 (R303). -/
theorem setFlag_b_i (p : Byte) : setFlag (setFlag p .b true) .i true = p ||| 0x14 := BitVec.or_assoc p 0x10 0x04

/-- The copy of P that BRK pushes: bits 4 and 5 (R303). -/
theorem setFlag_b_or_20 (p : Byte) : setFlag p .b true ||| 0x20 = p ||| 0x30 := BitVec.or_assoc p 0x10 0x20

/-- Settles O34: an interrupt taken with B set, and the cycles of BRK. -/
theorem brkEntersTheIrqHandler : Obligations.BrkEntersTheIrqHandler := by
  intro s saved lo hi
  have pushes := enterInterrupt_pushes .instruction (s.pc + 2) (some true) irqVector s
  rw [setFlag?, setFlag_b_or_20] at pushes
  refine ⟨_, rfl, by simp, by simp, by simp, setFlag_b_i s.p, toNat_word _ _, by simp, ?_⟩
  exact pushes.congr (by constructor <;> rfl) rfl rfl rfl rfl rfl rfl

end Sys2Proof.Machine
end

section
/-!
O35, O36. PHA, PHP, PLA and PLP (46_stack_flags_misc.md R320 to R323): one push or one pull, the end of the instruction
and what the pulled byte is written to.
-/

namespace Sys2Proof.Machine

/-- One push ends the instruction with S, pc and the cycles moved on; every other register stands (R320, R321). -/
theorem advance_push_spec (len cyc : Nat) (v : Byte) (s : State) :
    ∃ t, (.next (advance len cyc (push v s)) : Result) = .next t ∧ t.a = s.a ∧ t.x = s.x ∧ t.y = s.y ∧ t.p = s.p ∧
      Advanced len cyc s t ∧ PushesFrom [v] s (push v s) t := by
  refine ⟨_, rfl, rfl, rfl, rfl, rfl, ⟨rfl, rfl⟩, ?_⟩
  exact ((PushesFrom.nil s).push v (by decide)).congr (by constructor <;> rfl) rfl rfl rfl rfl rfl rfl

/-- Settles O35: PHA and PHP are the same push, of A and of P with bits 4 and 5 set. -/
theorem pushAccumulatorAndStatus : Obligations.PushAccumulatorAndStatus :=
  fun s => ⟨advance_push_spec 1 3 s.a s, advance_push_spec 1 3 (s.p ||| 0x30) s⟩

/-- What follows the pull may write A, P, pc and the cycles: nothing is stored (R322, R323). -/
theorem advance_pull_leavesWorld (len cyc : Nat) (a p : Byte) (s : State) :
    LeavesWorld s (pull s).2 (advance len cyc { (pull s).2 with a := a, p := p }) :=
  have written : LeavesWorld s (pull s).2 { (pull s).2 with a := a, p := p } :=
    (LeavesWorld.refl s).pull.congr (by constructor <;> rfl) rfl rfl rfl rfl rfl
  written.jumpTo _ _

/-- Settles O36: PLA writes the pulled byte to A and its N and Z to P, PLP the whole byte to P. -/
theorem pullAccumulatorAndStatus : Obligations.PullAccumulatorAndStatus := by
  intro s v u
  constructor
  case left =>
    have flags : NZFrom v s (advance 1 4 ((u.setA v).setNZ v)) := NZFrom.of_applyFlags (pull_p s) rfl
    exact ⟨_, rfl, rfl, rfl, rfl, rfl, flags, ⟨rfl, rfl⟩, advance_pull_leavesWorld 1 4 v _ s⟩
  case right => exact ⟨_, rfl, rfl, rfl, rfl, rfl, rfl, ⟨rfl, rfl⟩, advance_pull_leavesWorld 1 4 s.a _ s⟩

end Sys2Proof.Machine
end

section
/-!
O37 to O40. The flag instructions, the no-ops and the simulator instructions (46_stack_flags_misc.md R324 to R334): the
end of an instruction as one next state, then what each writes before it.
-/

namespace Sys2Proof.Machine

/-- The end of an instruction writes pc and the cycles alone (00_scope.md R14, 60_exceptions.md R455). -/
theorem advance_eq (len cyc : Nat) (s : State) :
    advance len cyc s = { s with pc := s.pc + BitVec.ofNat 16 len, cycles := s.cycles + cyc } := rfl

/-- Jumping to where pc stands only charges the cycles (R334). -/
theorem jumpTo_own_pc (cyc : Nat) (s : State) : jumpTo s.pc cyc s = { s with cycles := s.cycles + cyc } := rfl

/-- A flag instruction, with the byte its write makes of P (R324 to R330). -/
theorem advance_setFlag {f : Flag} {b : Bool} {s : State} {p : Byte} (hp : setFlag s.p f b = p) :
    (.next (advance 1 2 (s.setFlag f b)) : Result) =
      .next { s with p := p, pc := s.pc + 1, cycles := s.cycles + 2 } := by
  rw [← hp, advance_eq]
  rfl

/-- Settles O37: each of the seven masks the bit of its flag (10_state.md R26) out of P or into it. -/
theorem flagInstructions : Obligations.FlagInstructions :=
  fun _ =>
    ⟨advance_setFlag (f := .c) (b := false) rfl, advance_setFlag (f := .c) (b := true) rfl,
      advance_setFlag (f := .d) (b := false) rfl, advance_setFlag (f := .d) (b := true) rfl,
      advance_setFlag (f := .i) (b := false) rfl, advance_setFlag (f := .i) (b := true) rfl,
      advance_setFlag (f := .v) (b := false) rfl⟩

/-- Settles O38: NOP and UNDEF are the end of an instruction and nothing before it. -/
theorem nopAndUndefined : Obligations.NopAndUndefined :=
  fun _ s => ⟨congrArg Host.Outcome.next (advance_eq 1 2 s), congrArg Host.Outcome.next (advance_eq 1 6 s)⟩

/-- A halted CPU is idle (60_exceptions.md R468). -/
theorem idle_of_halted {s : State} (h : s.halted = true) : s.idle = true := by simp [State.idle, h]

/-- Once woken, only a stop request keeps the CPU idle (60_exceptions.md R468, R469). -/
theorem idle_wake (s : State) : (wake s).idle = s.stopRequested := Bool.false_or _

/-- Settles O39: HALT is the end of an instruction with `halted` set after it. -/
theorem haltWaitsForWake : Obligations.HaltWaitsForWake :=
  fun s => ⟨_, rfl, congrArg (·.setHalted true) (advance_eq 1 s.cfg.haltCycles s), idle_of_halted rfl, rfl, idle_wake _⟩

/-- DEBUG with a selector the configuration accepts (R334). -/
theorem exec_debug_accepted {sel : Byte} {s : State} (h : sel ∈ s.cfg.debugSelectors) :
    exec (.debug sel) s = .next (advance 2 s.cfg.debugCycles (s.emit (.debugCallback sel))) :=
  congrArg Host.Outcome.next (if_pos (List.contains_iff_mem.mpr h))

/-- DEBUG with any other selector (R334). -/
theorem exec_debug_repeats {sel : Byte} {s : State} (h : sel ∉ s.cfg.debugSelectors) :
    exec (.debug sel) s = .next (jumpTo s.pc s.cfg.debugCycles s) :=
  congrArg Host.Outcome.next (if_neg fun hc => h (List.contains_iff_mem.mp hc))

/-- Settles O40: by whether the configuration accepts the selector. -/
theorem debugCallsBackOrRepeats : Obligations.DebugCallsBackOrRepeats := by
  intro sel s
  by_cases h : sel ∈ s.cfg.debugSelectors
  · rw [if_pos h, exec_debug_accepted h, advance_eq]
    rfl
  · rw [if_neg h, exec_debug_repeats h, jumpTo_own_pc]

end Sys2Proof.Machine
end

section
/-!
O48. The worker's steps (47_acia.md R369 to R372): where each is enabled, and the step under that condition.
-/

namespace Sys2Proof.Machine

/-- TxStart waits for a byte in TDR and an idle transmitter (R370). -/
theorem moveEnabled_txStart_iff (d : Acia) :
    moveEnabled .txStart d = true ↔ d.txPending = true ∧ d.txBusy = false := by
  simp [moveEnabled]

/-- RxPoll waits for a peer and an empty RDR (R372). -/
theorem moveEnabled_rxPoll_iff (d : Acia) (answer : Option Byte) :
    moveEnabled (.rxPoll answer) d = true ↔ d.rxPeer = true ∧ d.rdrf = false := by
  simp [moveEnabled]

/-- A worker step under any condition that says when its move is enabled (R369). -/
theorem workerStep_eq_ite {m : WorkerMove} {d : Acia} {p : Prop} [Decidable p] (hp : moveEnabled m d = true ↔ p)
    (es : List Event) :
    workerStep m (d, es) = if p then (d.afterMove m, d.moveEvents m ++ es) else (d, es) :=
  if_congr hp rfl rfl

/-- TxFinish raises TDRE exactly where no further byte is pending (R371). -/
theorem Acia.txFinish_eq (d : Acia) :
    d.txFinish = { d with txBusy := false, tdre := if d.txPending = false then true else d.tdre } := by
  cases hp : d.txPending <;> simp [Acia.txFinish, hp]

/-- The byte sent, ahead of the events before it, if a peer is attached (R371). -/
theorem Acia.txEvents_append (d : Acia) (es : List Event) :
    d.txEvents ++ es = if d.txPeer = true then .peerWrite d.txShift :: es else es :=
  apply_ite (· ++ es) ..

/-- RxPoll stores the byte the peer answers, and nothing where it has none (R372). -/
theorem workerStep_rxPoll (d : Acia) (answer : Option Byte) (es : List Event) :
    workerStep (.rxPoll answer) (d, es) =
      if d.rxPeer = true ∧ d.rdrf = false then (d.rxPoll answer, es) else (d, es) :=
  workerStep_eq_ite (moveEnabled_rxPoll_iff d answer) es

/-- Settles O48: each move's enabling condition, then its effect; for the poll, by the peer's answer. -/
theorem workerSteps : Obligations.WorkerSteps := by
  refine ⟨fun d es answer => ⟨?txStart, ?txFinish, ?rxPoll⟩, fun m s => rfl⟩
  case txStart => exact workerStep_eq_ite (moveEnabled_txStart_iff d) es
  case txFinish =>
    rw [← Acia.txFinish_eq, ← Acia.txEvents_append]
    exact workerStep_eq_ite Iff.rfl es
  case rxPoll =>
    rw [workerStep_rxPoll]
    cases answer <;> rfl

end Sys2Proof.Machine
end

section
/-!
O59. Classification with the expected counts in the ratio 2 (48_tape_codec.md R415, R421).
-/

namespace Sys2Proof.Machine

/-- The distance of a length from an expected one is that of the two numbers. -/
theorem distance_eq_abs (n : Nat) (e : Rat) : distance n e = |(n : Rat) - e| := by
  unfold distance
  split_ifs with h
  · rw [abs_of_neg (by linarith), neg_sub]
  · rw [abs_of_nonneg (by linarith)]

/-- A length is closer to twice `q` than to `q` exactly above their middle. -/
theorem abs_sub_two_mul_lt_iff {q x : Rat} (hq : 0 < q) : |x - 2 * q| < |x - q| ↔ 3 / 2 * q < x := by
  rw [← sq_lt_sq]
  constructor <;> intro h <;> nlinarith

/-- Settles O59: the first condition of R415 is the lower end, and above that the second is the upper one. -/
theorem toneClassification : Obligations.ToneClassification := by
  intro d n hpos hratio
  have hcond : (distance n d.countLo < distance n d.countHi ∧ distance n d.countLo < d.countLo / 2) ↔
      3 / 2 * d.countHi < n ∧ (n : Rat) < 3 * d.countHi := by
    rw [distance_eq_abs, distance_eq_abs, hratio, abs_sub_two_mul_lt_iff hpos, abs_lt]
    constructor <;> rintro ⟨hlo, hhi⟩
    · exact ⟨hlo, by linarith [hhi.2]⟩
    · exact ⟨hlo, by linarith, by linarith⟩
  simp only [classify, hcond]

end Sys2Proof.Machine
end

section
/-!
SUPPORT. A decode session as a source of boundaries and of cycle lengths, in order, for boundaries by zero crossings
(48_tape_codec.md R411, R413).
-/

namespace Sys2Proof.Machine

-- What reading samples leaves alone.

/-- Samples have been read: the expected counts, the run state and the end mark are as they were. -/
structure SamplesRead (d d' : Session) : Prop where
  countHi : d'.countHi = d.countHi
  countLo : d'.countLo = d.countLo
  runClass : d'.runClass = d.runClass
  runCount : d'.runCount = d.runCount
  ended : d'.ended = d.ended

theorem SamplesRead.trans {d d' d'' : Session} (h : SamplesRead d d') (k : SamplesRead d' d'') : SamplesRead d d'' :=
  ⟨k.countHi.trans h.countHi, k.countLo.trans h.countLo, k.runClass.trans h.runClass, k.runCount.trans h.runCount,
    k.ended.trans h.ended⟩

/-- A session that has read the sample `v`, a boundary or not, and has `vs` before it. -/
def Session.afterSample (d : Session) (v : Int) (vs : List Int) (hit : Bool) : Session :=
  { d with
    input := vs
    prevSample := some v
    peakState := nextPeakState d v hit
    nextIndex := d.nextIndex + 1 }

/-- The sample `v` is a boundary, by peaks or by zero crossings (R410). -/
def Session.boundaryAt (d : Session) (peaks : Bool) (v : Int) (vs : List Int) : Bool :=
  if peaks then peakAt d v vs else zeroCrossing d v

/-- A scan stops at a boundary and goes on past any other sample. -/
theorem scan_cons (peaks : Bool) (v : Int) (vs : List Int) (d : Session) : scan peaks (v :: vs) d =
    if d.boundaryAt peaks v vs then (some d.nextIndex, d.afterSample v vs (d.boundaryAt peaks v vs))
    else scan peaks vs (d.afterSample v vs (d.boundaryAt peaks v vs)) := rfl

theorem afterSample_samplesRead (d : Session) (v : Int) (vs : List Int) (hit : Bool) :
    SamplesRead d (d.afterSample v vs hit) := ⟨rfl, rfl, rfl, rfl, rfl⟩

theorem scan_samplesRead (peaks : Bool) (xs : List Int) (d : Session) : SamplesRead d (scan peaks xs d).2 := by
  induction xs generalizing d with
  | nil => exact ⟨rfl, rfl, rfl, rfl, rfl⟩
  | cons v vs ih =>
    have one := afterSample_samplesRead d v vs
    rw [scan_cons]
    cases d.boundaryAt peaks v vs with
    | true => exact one true
    | false => exact (one false).trans (ih _)

/-- A boundary read is the scan's, and is remembered if there is one. -/
theorem nextBoundary_eq (c : Config) (d : Session) : nextBoundary c d =
    ((scan (byPeaks c.phase) d.input d).1,
      { (scan (byPeaks c.phase) d.input d).2 with
        lastBoundary :=
          ((scan (byPeaks c.phase) d.input d).1 <|> (scan (byPeaks c.phase) d.input d).2.lastBoundary) }) := by
  unfold nextBoundary
  rcases scan (byPeaks c.phase) d.input d with ⟨_ | i, d'⟩ <;> rfl

theorem nextBoundary_samplesRead (c : Config) (d : Session) : SamplesRead d (nextBoundary c d).2 := by
  rw [nextBoundary_eq]
  exact (scan_samplesRead _ _ d).trans ⟨rfl, rfl, rfl, rfl, rfl⟩

theorem nextCycle_samplesRead (c : Config) (d : Session) : SamplesRead d (nextCycle c d).2 := by
  have once := nextBoundary_samplesRead c d
  have twice := once.trans (nextBoundary_samplesRead c _)
  unfold nextCycle
  cases d.lastBoundary with
  | some i => rcases h : nextBoundary c d with ⟨_ | j, d'⟩ <;> simpa [h] using once
  | none =>
    rcases h : nextBoundary c d with ⟨_ | i, d'⟩
    · simpa [h] using once
    · rcases h' : nextBoundary c d' with ⟨_ | j, d''⟩ <;> simpa [h, h'] using twice

-- Boundaries.

/-- The boundaries still to be found. A first sample of all is none, whatever stands before it (R411). -/
def boundariesAhead (d : Session) : List Nat := crossings (d.prevSample.getD (d.input.headD 0)) d.nextIndex d.input

theorem zeroCrossing_eq (d : Session) (v : Int) : zeroCrossing d v = risesAt (d.prevSample.getD v) v := by
  unfold zeroCrossing
  cases d.prevSample with
  | none => simp [risesAt]
  | some u => rfl

theorem boundaryAt_zeroCrossing (d : Session) (v : Int) (vs : List Int) :
    d.boundaryAt false v vs = zeroCrossing d v := rfl

/-- A scan takes the first boundary ahead, if there is one. -/
theorem scan_eq_head_tail (xs : List Int) (d : Session) :
    (scan false xs d).1 = (crossings (d.prevSample.getD (xs.headD 0)) d.nextIndex xs).head? ∧
    boundariesAhead (scan false xs d).2 = (crossings (d.prevSample.getD (xs.headD 0)) d.nextIndex xs).tail := by
  induction xs generalizing d with
  | nil => exact ⟨rfl, rfl⟩
  | cons v vs ih =>
    rw [List.headD_cons, crossings_cons, ← zeroCrossing_eq, scan_cons, boundaryAt_zeroCrossing]
    cases zeroCrossing d v with
    | true => exact ⟨rfl, rfl⟩
    | false => exact ih (d.afterSample v vs false)

/-- With no boundary ahead the reader answers none, and there is none ahead of what it leaves. -/
theorem nextBoundary_of_nil {c : Config} (hphase : byPeaks c.phase = false) {d : Session}
    (h : boundariesAhead d = []) : ∃ d', nextBoundary c d = (none, d') ∧ boundariesAhead d' = [] := by
  obtain ⟨hhead, htail⟩ := scan_eq_head_tail d.input d
  rw [← boundariesAhead, h] at hhead htail
  rw [nextBoundary_eq, hphase, hhead]
  exact ⟨_, rfl, htail⟩

/-- With a boundary ahead the reader answers it, remembers it and leaves the others. -/
theorem nextBoundary_of_cons {c : Config} (hphase : byPeaks c.phase = false) {d : Session} {i : Nat} {bs : List Nat}
    (h : boundariesAhead d = i :: bs) :
    ∃ d', nextBoundary c d = (some i, d') ∧ d'.lastBoundary = some i ∧ boundariesAhead d' = bs := by
  obtain ⟨hhead, htail⟩ := scan_eq_head_tail d.input d
  rw [← boundariesAhead, h] at hhead htail
  rw [nextBoundary_eq, hphase, hhead]
  exact ⟨_, rfl, rfl, htail⟩

-- Cycle lengths.

/-- The differences of a list's neighbours. -/
def steps (bs : List Nat) : List Nat := List.zipWith (fun i j => j - i) bs bs.tail

@[simp] theorem steps_cons_cons (i j : Nat) (bs : List Nat) : steps (i :: j :: bs) = (j - i) :: steps (j :: bs) := rfl

/-- The lengths of the cycles still to be measured (R413). -/
def lengthsAhead (d : Session) : List Nat := steps (d.lastBoundary.toList ++ boundariesAhead d)

/-- No length is ahead of a session with no boundary ahead. -/
theorem lengthsAhead_of_nil {d : Session} (h : boundariesAhead d = []) : lengthsAhead d = [] := by
  rw [lengthsAhead, h]
  cases d.lastBoundary <;> rfl

/-- The lengths ahead of a session that has found a boundary begin at it. -/
theorem lengthsAhead_of_some {d : Session} {i : Nat} {bs : List Nat} (hl : d.lastBoundary = some i)
    (h : boundariesAhead d = bs) : lengthsAhead d = steps (i :: bs) := by
  rw [lengthsAhead, h, hl]
  rfl

/-- The lengths ahead of a session that has found none begin at the first one ahead. -/
theorem lengthsAhead_of_none {d : Session} {bs : List Nat} (hl : d.lastBoundary = none)
    (h : boundariesAhead d = bs) : lengthsAhead d = steps bs := by
  rw [lengthsAhead, h, hl]
  rfl

/-- A cycle begun at the last boundary ends at the next one ahead. -/
theorem nextCycle_of_some {c : Config} (hphase : byPeaks c.phase = false) {d : Session} {i : Nat}
    (hl : d.lastBoundary = some i) :
    (nextCycle c d).1 = (lengthsAhead d).head? ∧ lengthsAhead (nextCycle c d).2 = (lengthsAhead d).tail := by
  cases hb : boundariesAhead d with
  | nil =>
    obtain ⟨d', he, hb'⟩ := nextBoundary_of_nil hphase hb
    simp [nextCycle, hl, he, lengthsAhead_of_nil hb, lengthsAhead_of_nil hb']
  | cons j bs =>
    obtain ⟨d', he, hl', hb'⟩ := nextBoundary_of_cons hphase hb
    simp [nextCycle, hl, he, lengthsAhead_of_some hl hb, lengthsAhead_of_some hl' hb']

/-- The cycle reader takes the first length ahead, if there is one. -/
theorem nextCycle_eq_head_tail {c : Config} (hphase : byPeaks c.phase = false) (d : Session) :
    (nextCycle c d).1 = (lengthsAhead d).head? ∧ lengthsAhead (nextCycle c d).2 = (lengthsAhead d).tail := by
  cases hl : d.lastBoundary with
  | some i => exact nextCycle_of_some hphase hl
  | none =>
    cases hb : boundariesAhead d with
    | nil =>
      obtain ⟨d', he, hb'⟩ := nextBoundary_of_nil hphase hb
      simp [nextCycle, hl, he, lengthsAhead_of_nil hb, lengthsAhead_of_nil hb']
    | cons i bs =>
      obtain ⟨d', he, hl', hb'⟩ := nextBoundary_of_cons hphase hb
      have skip : nextCycle c d = nextCycle c d' := by simp only [nextCycle, hl, he, hl']
      rw [skip, lengthsAhead_of_none hl hb, ← lengthsAhead_of_some hl' hb']
      exact nextCycle_of_some hphase hl'

/-- There are no more boundaries than samples. -/
theorem crossings_length_le (u : Int) (i : Nat) (xs : List Int) : (crossings u i xs).length ≤ xs.length := by
  induction xs generalizing u i with
  | nil => exact le_rfl
  | cons v vs ih =>
    have := ih v (i + 1)
    rw [crossings]
    split_ifs <;> simp <;> omega

/-- Nor more cycles: each takes at least a sample. -/
theorem lengthsAhead_length_le (d : Session) : (lengthsAhead d).length ≤ d.input.length := by
  have := crossings_length_le (d.prevSample.getD (d.input.headD 0)) d.nextIndex d.input
  have : d.lastBoundary.toList.length ≤ 1 := by cases d.lastBoundary <;> simp
  simp only [lengthsAhead, steps, boundariesAhead, List.length_zipWith, List.length_tail, List.length_append]
  omega

end Sys2Proof.Machine
end

section
/-!
SUPPORT. A decode session that can tell the tones of its cycles apart, as a source of tones, of bits and of bytes
(48_tape_codec.md R415 to R419).
-/

namespace Sys2Proof.Machine

-- The range of the expected counts (R421).

/-- A member of a list lies in its range. -/
theorem Within.of_mem {xs : List Rat} {q : Rat} (h : q ∈ xs) : Within xs q := ⟨⟨q, h, le_rfl⟩, q, h, le_rfl⟩

/-- A weighted mean of two numbers of the range lies in it. -/
theorem Within.mean {xs : List Rat} {q x : Rat} (hq : Within xs q) (hx : Within xs x) :
    Within xs ((3 * q + x) / 4) := by
  obtain ⟨⟨lo, hlo, hloq⟩, hi, hhi, hqhi⟩ := hq
  obtain ⟨⟨lo', hlo', hlox⟩, hi', hhi', hxhi⟩ := hx
  constructor
  · rcases le_total lo lo' with h | h
    · exact ⟨lo, hlo, by linarith⟩
    · exact ⟨lo', hlo', by linarith⟩
  · rcases le_total hi hi' with h | h
    · exact ⟨hi', hhi', by linarith⟩
    · exact ⟨hi, hhi, by linarith⟩

/-- The session with another expected mark count, and the space count in the ratio 2 to it. -/
def Session.expect (d : Session) (q : Rat) : Session := { d with countHi := q, countLo := 2 * q }

theorem expect_countHi {d : Session} (h : d.countLo = 2 * d.countHi) : d.expect d.countHi = d := by
  rw [Session.expect, ← h]

/-- The update of R416: the expected mark count as it was, or a mean with the length of a mark, or with half the length
of a space. -/
theorem adapt_cases {d : Session} (h : d.countLo = 2 * d.countHi) (adaptive : Bool) (n : Nat) :
    adapt adaptive d n = d.expect d.countHi ∨
    (adaptive = true ∧ classify d n = .mark ∧ adapt adaptive d n = d.expect ((3 * d.countHi + n) / 4)) ∨
    (adaptive = true ∧ classify d n = .space ∧
      adapt adaptive d n = d.expect ((3 * d.countHi + (n : Rat) / 2) / 4)) := by
  rw [expect_countHi h]
  cases adaptive with
  | false => exact .inl rfl
  | true =>
    rw [adapt, if_pos rfl]
    cases hc : classify d n with
    | space =>
      have lo : (3 * d.countLo + n) / 4 = 2 * ((3 * d.countHi + (n : Rat) / 2) / 4) := by rw [h]; ring
      refine .inr (.inr ⟨rfl, rfl, ?_⟩)
      simp only [Session.expect, lo, mul_div_cancel_left₀ _ (two_ne_zero' Rat)]
    | mark =>
      dsimp only
      split_ifs with near
      · exact .inr (.inl ⟨rfl, rfl, rfl⟩)
      · exact .inl rfl

/-- In every case the ratio stays, and nothing changes but the expected counts. -/
theorem adapt_eq_expect {d : Session} (h : d.countLo = 2 * d.countHi) (adaptive : Bool) (n : Nat) :
    ∃ q, adapt adaptive d n = d.expect q := by
  rcases adapt_cases h adaptive n with e | ⟨-, -, e⟩ | ⟨-, -, e⟩ <;> exact ⟨_, e⟩

-- Tones.

/-- The lengths that the cycles of a tone can measure, kept apart at every expected mark count the decoder can reach
(R421). -/
structure TonesApart (c : Config) (owned : Tone → List Nat) : Prop where
  zeroCrossings : byPeaks c.phase = false
  positive : ∀ q, Within (countTargets c (owned .mark) (owned .space)) q → 0 < q
  separates : ∀ q, Within (countTargets c (owned .mark) (owned .space)) q → Separates (owned .mark) (owned .space) q

/-- A session whose cycles ahead have lengths of the tones `ts`, with expected counts in the range of R421. -/
structure Hears (c : Config) (owned : Tone → List Nat) (d : Session) (ts : List Tone) : Prop where
  ratio : d.countLo = 2 * d.countHi
  range : Within (countTargets c (owned .mark) (owned .space)) d.countHi
  lengths : List.Forall₂ (fun n t => n ∈ owned t) (lengthsAhead d) ts
  going : d.ended = false

section
variable {c : Config} {owned : Tone → List Nat} (apart : TonesApart c owned) {d : Session} {ts : List Tone}

theorem Hears.length_le (h : Hears c owned d ts) : ts.length ≤ d.input.length :=
  h.lengths.length_eq ▸ lengthsAhead_length_le d

/-- What a session hears depends on its expected counts, its end mark and the lengths ahead. -/
theorem Hears.congr (h : Hears c owned d ts) {d' : Session} {ts' : List Tone} (hi : d'.countHi = d.countHi)
    (lo : d'.countLo = d.countLo) (he : d'.ended = d.ended)
    (hl : List.Forall₂ (fun n t => n ∈ owned t) (lengthsAhead d') ts') : Hears c owned d' ts' where
  ratio := by rw [lo, hi, h.ratio]
  range := hi ▸ h.range
  lengths := hl
  going := he.trans h.going

include apart

/-- A length of a tone is classified as that tone (R415, R421). -/
theorem Hears.classify_eq (h : Hears c owned d ts) {n : Nat} {t : Tone} (hn : n ∈ owned t) : classify d n = t := by
  obtain ⟨hmark, hspace⟩ := apart.separates _ h.range
  rw [toneClassification d n (apart.positive _ h.range) h.ratio]
  cases t with
  | mark => exact if_neg fun ⟨hlo, hhi⟩ => (hmark n hn).elim hlo.not_ge hhi.not_ge
  | space => exact if_pos (hspace n hn)

/-- The adaptive update stays in the range (R416, R421). -/
theorem Hears.adapted (h : Hears c owned d ts) {n : Nat} {t : Tone} (hn : n ∈ owned t) :
    Hears c owned (adapt c.adaptive d n) ts := by
  have expects : ∀ q, Within (countTargets c (owned .mark) (owned .space)) q → Hears c owned (d.expect q) ts :=
    fun q hq => ⟨rfl, hq, h.lengths, h.going⟩
  have hclass := h.classify_eq apart hn
  rcases adapt_cases h.ratio c.adaptive n with e | ⟨ha, ht, e⟩ | ⟨ha, ht, e⟩ <;> rw [e]
  · exact expects _ h.range
  · obtain rfl : t = .mark := hclass.symm.trans ht
    exact expects _ (h.range.mean (.of_mem (by simp [countTargets, ha, hn])))
  · obtain rfl : t = .space := hclass.symm.trans ht
    refine expects _ (h.range.mean (.of_mem ?_))
    rw [countTargets, if_pos ha]
    exact List.mem_cons_of_mem _ (List.mem_append_right _ (List.mem_map.mpr ⟨n, hn, rfl⟩))

/-- With no tone ahead the cycle reader answers EOD. -/
theorem Hears.nextCycle_nil (h : Hears c owned d []) : ∃ d', nextCycle c d = (none, d') ∧ SamplesRead d d' ∧
    Hears c owned d' [] := by
  obtain ⟨hhead, htail⟩ := nextCycle_eq_head_tail apart.zeroCrossings d
  have read := nextCycle_samplesRead c d
  have none := List.forall₂_nil_right_iff.mp h.lengths
  rw [none] at hhead htail
  refine ⟨_, Prod.ext hhead rfl, read, h.congr read.countHi read.countLo read.ended ?_⟩
  rw [htail]
  exact .nil

/-- With a tone ahead it answers a length of that tone. -/
theorem Hears.nextCycle_cons {t : Tone} (h : Hears c owned d (t :: ts)) : ∃ n d', nextCycle c d = (some n, d') ∧
    SamplesRead d d' ∧ n ∈ owned t ∧ Hears c owned d' ts := by
  obtain ⟨hhead, htail⟩ := nextCycle_eq_head_tail apart.zeroCrossings d
  have read := nextCycle_samplesRead c d
  obtain ⟨n, ns, hn, hns, e⟩ := List.forall₂_cons_right_iff.mp h.lengths
  rw [e] at hhead htail
  refine ⟨n, _, Prod.ext hhead rfl, read, hn, h.congr read.countHi read.countLo read.ended ?_⟩
  rw [htail]
  exact hns

end

-- Bits.

/-- The bits that cycles of the tones `ts` complete, `count` cycles of the tone `run` before them (R417). -/
def toneBits (c : Config) : Tone → Nat → List Tone → List Bool
  | _, _, [] => []
  | run, count, t :: ts =>
    if (if t = run then count + 1 else 1) = need c t then toneBit t :: toneBits c t 0 ts
    else toneBits c t (if t = run then count + 1 else 1) ts

/-- `toneBits` follows the model's run state. -/
theorem toneBits_cons (c : Config) (t : Tone) (ts : List Tone) (d : Session) :
    toneBits c d.runClass d.runCount (t :: ts) =
      (runCycle c t d).1.toList ++ toneBits c (runCycle c t d).2.runClass (runCycle c t d).2.runCount ts := by
  simp only [toneBits, runCycle]
  split_ifs <;> rfl

theorem toneBits_length_le (c : Config) (run : Tone) (count : Nat) (ts : List Tone) :
    (toneBits c run count ts).length ≤ ts.length := by
  induction ts generalizing run count with
  | nil => exact le_rfl
  | cons t ts ih =>
    rw [toneBits]
    generalize (if t = run then count + 1 else 1) = n
    split
    · exact Nat.succ_le_succ (ih _ _)
    · exact (ih _ _).trans (Nat.le_succ _)

/-- The data bits of a byte in the order of a frame (R402). -/
def dataOf (b : Byte) : List Bool :=
  [b.getLsbD 0, b.getLsbD 1, b.getLsbD 2, b.getLsbD 3, b.getLsbD 4, b.getLsbD 5, b.getLsbD 6, b.getLsbD 7]

/-- Bits put into a byte in order, the first of them as bit `i` (R418). -/
def assemble : Nat → Byte → List Bool → Byte
  | _, b, [] => b
  | i, b, x :: xs => assemble (i + 1) (if x then b ||| (1#8 <<< i) else b) xs

theorem assemble_dataOf (b : Byte) : assemble 0 0x00 (dataOf b) = b := by
  revert b
  decide

/-- A session that hears tones that complete the bits `bits`. -/
def Spells (c : Config) (owned : Tone → List Nat) (d : Session) (bits : List Bool) : Prop :=
  ∃ ts, Hears c owned d ts ∧ toneBits c d.runClass d.runCount ts = bits

section
variable {c : Config} {owned : Tone → List Nat} {d : Session} {bits : List Bool}

theorem Spells.length_le (h : Spells c owned d bits) : bits.length ≤ d.input.length := by
  obtain ⟨ts, hears, rfl⟩ := h
  exact (toneBits_length_le ..).trans hears.length_le

theorem Spells.going (h : Spells c owned d bits) : d.ended = false := by
  obtain ⟨ts, hears, -⟩ := h
  exact hears.going

/-- A cycle counted changes the run state alone. -/
theorem Hears.counted {ts : List Tone} (h : Hears c owned d ts) (t : Tone) : Hears c owned (runCycle c t d).2 ts := by
  unfold runCycle
  dsimp only
  split_ifs <;> exact h.congr rfl rfl rfl h.lengths

variable (apart : TonesApart c owned)
include apart

/-- The bit reader takes the first bit its tones complete, if there is one. -/
theorem Hears.nextBit_within {ts : List Tone} {k : Nat} (h : Hears c owned d ts) (hk : ts.length < k) :
    (nextBitWithin c k d).1 = (toneBits c d.runClass d.runCount ts).head? ∧
      Spells c owned (nextBitWithin c k d).2 (toneBits c d.runClass d.runCount ts).tail := by
  induction k generalizing d ts with
  | zero => exact absurd hk (Nat.not_lt_zero _)
  | succ k ih =>
    rw [nextBitWithin]
    cases ts with
    | nil =>
      obtain ⟨d', e, -, h'⟩ := h.nextCycle_nil apart
      rw [e]
      exact ⟨rfl, [], h'.congr rfl rfl rfl h'.lengths, rfl⟩
    | cons t ts =>
      obtain ⟨n, d', e, read, hn, h'⟩ := h.nextCycle_cons apart
      obtain ⟨q, he⟩ := adapt_eq_expect h'.ratio c.adaptive n
      have counted := (h'.adapted apart hn).counted t
      have bits := toneBits_cons c t ts (adapt c.adaptive d' n)
      have run : toneBits c (adapt c.adaptive d' n).runClass (adapt c.adaptive d' n).runCount (t :: ts) =
          toneBits c d.runClass d.runCount (t :: ts) := by
        rw [he, ← read.runClass, ← read.runCount]
        rfl
      rw [e, ← run, bits]
      dsimp only
      rw [h'.classify_eq apart hn]
      rcases hr : runCycle c t (adapt c.adaptive d' n) with ⟨_ | b, d''⟩ <;> rw [hr] at counted
      · exact ih counted (Nat.lt_of_succ_lt_succ hk)
      · exact ⟨rfl, ts, counted, rfl⟩

/-- The bit reader takes the first bit ahead, if there is one. -/
theorem Spells.bit (h : Spells c owned d bits) :
    (nextBit c d).1 = bits.head? ∧ Spells c owned (nextBit c d).2 bits.tail := by
  obtain ⟨ts, hears, rfl⟩ := h
  exact hears.nextBit_within apart (Nat.lt_succ_of_le hears.length_le)

theorem Spells.bit_nil (h : Spells c owned d []) : ∃ d', nextBit c d = (none, d') ∧ Spells c owned d' [] :=
  have ⟨hhead, htail⟩ := h.bit apart
  ⟨_, Prod.ext hhead rfl, htail⟩

theorem Spells.bit_cons {b : Bool} (h : Spells c owned d (b :: bits)) :
    ∃ d', nextBit c d = (some b, d') ∧ Spells c owned d' bits :=
  have ⟨hhead, htail⟩ := h.bit apart
  ⟨_, Prod.ext hhead rfl, htail⟩

-- Bytes.

/-- The scan for the start bit skips ones and stops after the first zero (R418). -/
theorem Spells.start_bit {a k : Nat} (h : Spells c owned d (List.replicate a true ++ false :: bits)) (hk : a < k) :
    ∃ d', seekStart c k d = (true, d') ∧ Spells c owned d' bits := by
  induction k generalizing a d with
  | zero => exact absurd hk (Nat.not_lt_zero _)
  | succ k ih =>
    cases a with
    | zero =>
      obtain ⟨d', e, h'⟩ := h.bit_cons apart
      exact ⟨d', by rw [seekStart, e], h'⟩
    | succ a =>
      obtain ⟨d', e, h'⟩ := h.bit_cons apart
      rw [seekStart, e]
      exact ih h' (Nat.lt_of_succ_lt_succ hk)

/-- It fails where only ones are left. -/
theorem Spells.only_ones {a : Nat} (h : Spells c owned d (List.replicate a true)) (k : Nat) :
    (seekStart c k d).1 = false := by
  induction k generalizing a d with
  | zero => rfl
  | succ k ih =>
    cases a with
    | zero =>
      obtain ⟨d', e, -⟩ := h.bit_nil apart
      rw [seekStart, e]
    | succ a =>
      obtain ⟨d', e, h'⟩ := h.bit_cons apart
      rw [seekStart, e]
      exact ih h'

/-- The data bits are taken in order, each into its place of the byte. -/
theorem Spells.data_bits {data : List Bool} {i : Nat} {b : Byte} (h : Spells c owned d (data ++ bits)) :
    ∃ d', dataBits c data.length i b d = (some (assemble i b data), d') ∧ Spells c owned d' bits := by
  induction data generalizing i b d with
  | nil => exact ⟨d, rfl, h⟩
  | cons x data ih =>
    obtain ⟨d', e, h'⟩ := h.bit_cons apart
    rw [List.length_cons, dataBits, e]
    exact ih h'

/-- Stop bits are read and discarded, as far as there are any. -/
theorem Spells.stop_bits (h : Spells c owned d bits) (k : Nat) : Spells c owned (stopBits c k d) (bits.drop k) := by
  induction k generalizing d bits with
  | zero => exact h
  | succ k ih =>
    cases bits with
    | nil =>
      obtain ⟨d', e, h'⟩ := h.bit_nil apart
      rw [stopBits, e]
      exact h'
    | cons b bits =>
      obtain ⟨d', e, h'⟩ := h.bit_cons apart
      rw [stopBits, e]
      exact ih h'

/-- The byte reader takes a frame, whatever ones stand before it (R418). -/
theorem Spells.framed_byte {a : Nat} {b : Byte}
    (h : Spells c owned d (List.replicate a true ++ (frame b ++ bits))) :
    ∃ d', nextByte c d = (some b, d') ∧ Spells c owned d' bits := by
  have fuel : a < d.input.length + 1 := by
    have := h.length_le
    simp only [List.length_append, List.length_replicate] at this
    omega
  obtain ⟨d1, e1, h1⟩ := h.start_bit apart (bits := dataOf b ++ true :: true :: bits) fuel
  obtain ⟨d2, e2, h2⟩ := h1.data_bits apart (data := dataOf b) (i := 0) (b := 0x00)
  have data : dataBits c 8 0 0x00 d1 = (some b, d2) := by rw [assemble_dataOf] at e2; exact e2
  refine ⟨stopBits c 2 d2, ?_, h2.stop_bits apart 2⟩
  simp only [nextByte, h.going, e1, data, Bool.false_eq_true, if_false]

/-- It answers EOD where only ones are left (R419). -/
theorem Spells.end_of_data {a : Nat} (h : Spells c owned d (List.replicate a true)) : (nextByte c d).1 = none := by
  have ones := h.only_ones apart (d.input.length + 1)
  rw [nextByte, h.going]
  rcases hs : seekStart c (d.input.length + 1) d with ⟨_ | _, d'⟩
  · rfl
  · rw [hs] at ones
    simp at ones

/-- The frames of bytes, with ones before and after them, are read as these bytes (R419). -/
theorem Spells.readBytes_eq {bytes : List Byte} {a b k : Nat} (hk : bytes.length < k)
    (h : Spells c owned d (List.replicate a true ++ ((bytes.map frame).flatten ++ List.replicate b true))) :
    readBytes c k d = bytes := by
  induction k generalizing bytes a d with
  | zero => exact absurd hk (Nat.not_lt_zero _)
  | succ k ih =>
    cases bytes with
    | nil =>
      have ones : Spells c owned d (List.replicate (a + b) true) := by
        rw [List.replicate_add]
        exact h
      rw [readBytes]
      rcases he : nextByte c d with ⟨x, d'⟩
      obtain rfl : x = none := by simpa [he] using ones.end_of_data apart
      rfl
    | cons x bytes =>
      rw [List.map_cons, List.flatten_cons, List.append_assoc] at h
      obtain ⟨d', e, h'⟩ := h.framed_byte apart
      rw [readBytes, e]
      exact congrArg (x :: ·) (ih (a := 0) (Nat.lt_of_succ_lt_succ hk) h')

end

end Sys2Proof.Machine
end

section
/-!
SUPPORT. What the encoder's stream gives the decoder: its samples (48_tape_codec.md R406, R409), the tones of its cycles
and the bits these complete (R403, R417), and the lengths of its cycles (R421).
-/

namespace Sys2Proof.Machine

-- Samples through the stream of bytes.

theorem sampleBytes_length (d : BitDepth) (v : Int) : (sampleBytes d v).length = depthBytes d := by
  cases d <;> rfl

theorem frameBytes_length (c : Config) (v : Int) : (frameBytes c v).length = c.channels * depthBytes c.bitDepth := by
  simp [frameBytes, sampleBytes_length]

/-- A sample within the full scale is read back from its bytes. -/
theorem firstSample_sampleBytes {d : BitDepth} {v : Int} (h : |v| ≤ amax d) (rest : List Byte) :
    firstSample d (sampleBytes d v ++ rest) = v := by
  obtain ⟨hlo, hhi⟩ := abs_le.mp h
  cases d with
  | eight =>
    simp only [amax] at hlo hhi
    simp only [sampleBytes, List.cons_append, firstSample]
    exact BitVec.toInt_ofInt_eq_self (by decide) (by omega) (by omega)
  | sixteen =>
    simp only [amax] at hlo hhi
    simp only [sampleBytes, List.cons_append, firstSample, word_high_low]
    exact BitVec.toInt_ofInt_eq_self (by decide) (by omega) (by omega)

/-- The first channel of a frame is read back. -/
theorem firstSample_frameBytes {c : Config} (hch : 1 ≤ c.channels) {v : Int} (h : |v| ≤ amax c.bitDepth)
    (rest : List Byte) : firstSample c.bitDepth (frameBytes c v ++ rest) = v := by
  obtain ⟨k, hk⟩ := Nat.exists_eq_add_of_le' hch
  rw [frameBytes, hk, List.replicate_succ, List.flatten_cons, List.append_assoc]
  exact firstSample_sampleBytes h _

/-- The samples of frames, with a bound on their number that is large enough. -/
theorem frameSamples_frameBytes {c : Config} (hch : 1 ≤ c.channels) {xs : List Int} {k : Nat} (hk : xs.length ≤ k)
    (h : ∀ v ∈ xs, |v| ≤ amax c.bitDepth) :
    frameSamples c.bitDepth (c.channels * depthBytes c.bitDepth) k (xs.map (frameBytes c)).flatten = xs := by
  induction k generalizing xs with
  | zero => rw [List.length_eq_zero_iff.mp (Nat.le_zero.mp hk)]; rfl
  | succ k ih =>
    cases xs with
    | nil =>
      have width : 0 < c.channels * depthBytes c.bitDepth := Nat.mul_pos hch (by cases c.bitDepth <;> decide)
      simp [frameSamples, width]
    | cons v xs =>
      have hv := h v List.mem_cons_self
      have hxs : ∀ w ∈ xs, |w| ≤ amax c.bitDepth := fun w hw => h w (List.mem_cons_of_mem v hw)
      rw [List.map_cons, List.flatten_cons, frameSamples, firstSample_frameBytes hch hv,
        ← frameBytes_length c v, List.drop_left, if_neg (by simp), frameBytes_length,
        ih (Nat.le_of_succ_le_succ hk) hxs]

/-- A stream has at least a byte for every sample. -/
theorem streamSamples_length_le {c : Config} (hch : 1 ≤ c.channels) (cycle : Nat → List Int) (bytes : List Byte) :
    (streamSamples c cycle bytes).length ≤ (encodeWith c cycle bytes).length := by
  have width : 1 ≤ c.channels * depthBytes c.bitDepth := Nat.mul_pos hch (by cases c.bitDepth <;> decide)
  simp only [encodeWith, List.length_flatten, List.map_map, Function.comp_def, frameBytes_length, List.map_const',
    List.sum_replicate, smul_eq_mul]
  exact Nat.le_mul_of_pos_right _ width

/-- The decoder's samples of an encoded stream are the encoder's, the formats being equal. -/
theorem inputSamples_encodeWith {c : Config} {cycle : Nat → List Int} {bytes : List Byte} (hch : 1 ≤ c.channels)
    (hphase : c.phase = .deg0) (hdepth : c.inBitDepth = c.bitDepth) (hchannels : c.inChannels = c.channels)
    (h : ∀ v ∈ streamSamples c cycle bytes, |v| ≤ amax c.bitDepth) :
    inputSamples c (encodeWith c cycle bytes) = streamSamples c cycle bytes := by
  simp only [inputSamples, hphase, inverted, hdepth, hchannels, Bool.false_eq_true, if_false]
  exact frameSamples_frameBytes hch (streamSamples_length_le hch cycle bytes) h

-- Tones of a stream, and the bits they complete.

/-- The tone of a bit. -/
def bitTone (bit : Bool) : Tone := if bit then .mark else .space

@[simp] theorem toneBit_bitTone (bit : Bool) : toneBit (bitTone bit) = bit := by cases bit <;> rfl

/-- The tones of the cycles of bits (R403). -/
def cyclesOf (c : Config) (bits : List Bool) : List Tone :=
  (bits.map fun bit => List.replicate (need c (bitTone bit)) (bitTone bit)).flatten

/-- Samples in a cycle of a tone (R401). -/
def toneSamples (c : Config) : Tone → Nat
  | .mark => markSamples c
  | .space => spaceSamples c

/-- The samples of cycles of tones. -/
def samplesOf (c : Config) (cycle : Nat → List Int) (ts : List Tone) : List Int :=
  (ts.map fun t => cycle (toneSamples c t)).flatten

theorem samplesOf_cons (c : Config) (cycle : Nat → List Int) (t : Tone) (ts : List Tone) :
    samplesOf c cycle (t :: ts) = cycle (toneSamples c t) ++ samplesOf c cycle ts := rfl

theorem cyclesOf_cons (c : Config) (bit : Bool) (bits : List Bool) : cyclesOf c (bit :: bits) =
    List.replicate (need c (bitTone bit)) (bitTone bit) ++ cyclesOf c bits := rfl

theorem cyclesOf_append (c : Config) (xs ys : List Bool) : cyclesOf c (xs ++ ys) = cyclesOf c xs ++ cyclesOf c ys := by
  simp [cyclesOf]

theorem cyclesOf_ones (c : Config) (n : Nat) :
    cyclesOf c (List.replicate n true) = List.replicate (n * c.markCycles) .mark := by
  simp [cyclesOf, bitTone, need]

theorem renderBit_eq (c : Config) (cycle : Nat → List Int) (bit : Bool) :
    renderBit c cycle bit = samplesOf c cycle (List.replicate (need c (bitTone bit)) (bitTone bit)) := by
  cases bit <;> simp [renderBit, samplesOf, bitTone, need, toneSamples]

/-- A stream's samples are those of the cycles of its bits. -/
theorem streamSamples_eq (c : Config) (cycle : Nat → List Int) (bytes : List Byte) :
    streamSamples c cycle bytes = samplesOf c cycle (cyclesOf c (streamBits c bytes)) := by
  simp [streamSamples, samplesOf, cyclesOf, funext (renderBit_eq c cycle), List.map_flatten, List.flatten_flatten,
    Function.comp_def]

section
variable {c : Config}

/-- With no cycle counted yet, it does not matter of which tone. -/
theorem toneBits_zero (run run' : Tone) (ts : List Tone) : toneBits c run 0 ts = toneBits c run' 0 ts := by
  cases ts <;> simp [toneBits]

/-- A change of tone drops the cycles counted (R417). -/
theorem toneBits_of_ne {run t : Tone} (h : t ≠ run) (count : Nat) (ts : List Tone) :
    toneBits c run count (t :: ts) = toneBits c run 0 (t :: ts) := by
  simp [toneBits, h]

/-- The rest of a bit's cycles complete it. -/
theorem toneBits_complete {t : Tone} {count k : Nat} (h : count + (k + 1) = need c t) (ts : List Tone) :
    toneBits c t count (List.replicate (k + 1) t ++ ts) = toneBit t :: toneBits c t 0 ts := by
  induction k generalizing count with
  | zero => simp [toneBits, h]
  | succ k ih =>
    have more : count + 1 ≠ need c t := by omega
    rw [List.replicate_succ, List.cons_append, toneBits, if_pos rfl, if_neg more]
    exact ih (by omega)

/-- The cycles of bits complete these bits. -/
theorem toneBits_cyclesOf (hpos : ∀ t, 0 < need c t) (run : Tone) (bits : List Bool) (ts : List Tone) :
    toneBits c run 0 (cyclesOf c bits ++ ts) = bits ++ toneBits c run 0 ts := by
  induction bits with
  | nil => rfl
  | cons bit bits ih =>
    obtain ⟨k, hk⟩ := Nat.exists_eq_add_of_lt (hpos (bitTone bit))
    rw [cyclesOf_cons, List.append_assoc, toneBits_zero run (bitTone bit), hk,
      toneBits_complete (by omega), toneBit_bitTone, toneBits_zero (bitTone bit) run, ih]
    rfl

/-- Marks complete ones, and what they leave of a further bit is dropped if no mark follows (R417). -/
theorem toneBits_marks {ts : List Tone} (h : ts.head? ≠ some .mark) (p count : Nat) :
    ∃ a, toneBits c .mark count (List.replicate p .mark ++ ts) = List.replicate a true ++ toneBits c .mark 0 ts := by
  induction p generalizing count with
  | zero =>
    refine ⟨0, ?_⟩
    cases ts with
    | nil => rfl
    | cons t ts => exact toneBits_of_ne (fun e => h (congrArg some e)) count ts
  | succ p ih =>
    rw [List.replicate_succ, List.cons_append, toneBits, if_pos rfl]
    split_ifs
    · obtain ⟨a, e⟩ := ih 0
      exact ⟨a + 1, congrArg (true :: ·) e⟩
    · exact ih (count + 1)

/-- The tones of frames between two runs of marks complete the frames' bits between two runs of ones, at whatever cycle
the runs begin and end. -/
theorem toneBits_stream (hpos : ∀ t, 0 < need c t) (bytes : List Byte) (p q : Nat) :
    ∃ a b, toneBits c .mark 0 (List.replicate p .mark ++ (cyclesOf c (bytes.map frame).flatten ++
        List.replicate q .mark)) =
      List.replicate a true ++ ((bytes.map frame).flatten ++ List.replicate b true) := by
  obtain ⟨b, hb⟩ := toneBits_marks (c := c) (ts := []) (by simp) q 0
  rw [List.append_nil] at hb
  cases bytes with
  | nil =>
    obtain ⟨a, ha⟩ := toneBits_marks (c := c) (ts := []) (by simp) (p + q) 0
    rw [List.append_nil, List.replicate_add] at ha
    exact ⟨a, 0, ha⟩
  | cons x bytes =>
    obtain ⟨k, hk⟩ := Nat.exists_eq_add_of_lt (hpos .space)
    have start : (cyclesOf c ((x :: bytes).map frame).flatten ++ List.replicate q Tone.mark).head? ≠ some .mark := by
      simp [cyclesOf, frame, bitTone, hk, List.replicate_succ]
    obtain ⟨a, ha⟩ := toneBits_marks (c := c) start p 0
    refine ⟨a, b, ?_⟩
    rw [ha, toneBits_cyclesOf hpos, hb]
    simp [toneBits]

end

-- Lengths of a stream's cycles.

/-- Boundaries are found wherever the samples stand. -/
theorem crossings_shift (u : Int) (i k : Nat) (xs : List Int) :
    crossings u (i + k) xs = (crossings u k xs).map (i + ·) := by
  induction xs generalizing u k with
  | nil => rfl
  | cons v vs ih =>
    rw [crossings_cons, crossings_cons, List.map_append, ← ih, Nat.add_assoc]
    split_ifs <;> rfl

/-- A boundary lies within the samples. -/
theorem lt_of_mem_crossings {u : Int} {i j : Nat} {xs : List Int} (h : j ∈ crossings u i xs) : j < i + xs.length := by
  induction xs generalizing u i with
  | nil => simp at h
  | cons v vs ih =>
    rw [crossings_cons] at h
    rcases List.mem_append.mp h with h | h
    · split_ifs at h
      · simp only [List.mem_singleton] at h
        simp [h]
      · simp at h
    · have := ih h
      simp only [List.length_cons]
      omega

/-- Cycles have a last sample, whatever stands before them. -/
theorem getLast?_getD {xs : List Int} (h : xs ≠ []) (u : Int) : xs.getLast?.getD u = lastSample xs := by
  rw [lastSample, List.getLast?_eq_some_getLast h]
  rfl

/-- The shape of a cycle gives each of the two tones one boundary, whichever tone stands before (R421). -/
structure BoundaryAt (c : Config) (cycle : Nat → List Int) (edge : Tone → Nat) : Prop where
  length : ∀ t, (cycle (toneSamples c t)).length = toneSamples c t
  one : ∀ before t, crossings (lastSample (cycle (toneSamples c before))) 0 (cycle (toneSamples c t)) = [edge t]

/-- The other tone. -/
def otherTone : Tone → Tone
  | .mark => .space
  | .space => .mark

/-- The lengths that the cycles of a tone measure (R421). -/
def toneLengths (c : Config) (edge : Tone → Nat) (t : Tone) : List Nat :=
  ownedLengths (toneSamples c t) (edge t) (edge (otherTone t))

section
variable {c : Config} {cycle : Nat → List Int} {edge : Tone → Nat} (h : BoundaryAt c cycle edge)
include h

theorem BoundaryAt.lt (t : Tone) : edge t < toneSamples c t := by
  have := lt_of_mem_crossings (h.one t t ▸ List.mem_singleton_self (edge t))
  rwa [h.length, Nat.zero_add] at this

/-- The boundaries of cycles: that of the first, then those of the others. -/
theorem BoundaryAt.crossings_samplesOf_cons (before t : Tone) (ts : List Tone) (i : Nat) :
    crossings (lastSample (cycle (toneSamples c before))) i (samplesOf c cycle (t :: ts)) =
      (i + edge t) ::
        crossings (lastSample (cycle (toneSamples c t))) (i + toneSamples c t) (samplesOf c cycle ts) := by
  have pos : 0 < (cycle (toneSamples c t)).length := by
    rw [h.length]
    exact Nat.zero_lt_of_lt (h.lt t)
  have own := crossings_shift (lastSample (cycle (toneSamples c before))) i 0 (cycle (toneSamples c t))
  rw [h.one, Nat.add_zero] at own
  rw [samplesOf_cons, crossings_append, own, getLast?_getD (List.ne_nil_of_length_pos pos), h.length]
  rfl

/-- From the boundary of a cycle on, every cycle but the last measures a length of its tone. -/
theorem BoundaryAt.steps_samplesOf (t : Tone) (ts : List Tone) (i : Nat) :
    List.Forall₂ (fun n t => n ∈ toneLengths c edge t)
      (steps ((i + edge t) :: crossings (lastSample (cycle (toneSamples c t))) (i + toneSamples c t)
        (samplesOf c cycle ts)))
      (t :: ts).dropLast := by
  induction ts generalizing t i with
  | nil => exact .nil
  | cons t' ts ih =>
    rw [h.crossings_samplesOf_cons, steps_cons_cons]
    refine .cons ?_ (ih t' _)
    have := h.lt t
    have gap : i + toneSamples c t + edge t' - (i + edge t) = toneSamples c t - edge t + edge t' := by omega
    rw [gap]
    by_cases same : t' = t
    · rw [same, Nat.sub_add_cancel this.le]
      exact List.mem_cons_self
    · have other : t' = otherTone t := by cases t <;> cases t' <;> first | rfl | exact absurd rfl same
      rw [other]
      exact List.mem_cons_of_mem _ (List.mem_singleton_self _)

/-- What a session hears that starts on the samples of cycles: the last cycle is not measured, and the first one is not
where its boundary is the first sample of all (R411, R413). -/
theorem BoundaryAt.lengthsAhead_start {d : Session} {t : Tone} {ts : List Tone} (hprev : d.prevSample = none)
    (hlast : d.lastBoundary = none) (hindex : d.nextIndex = 0) (hinput : d.input = samplesOf c cycle (t :: ts)) :
    ∃ heard, (heard = (t :: ts).dropLast ∨ heard = ts.dropLast) ∧
      List.Forall₂ (fun n t => n ∈ toneLengths c edge t) (lengthsAhead d) heard := by
  have cut := h.crossings_samplesOf_cons t t ts 0
  cases hin : samplesOf c cycle (t :: ts) with
  | nil => rw [hin] at cut; cases cut
  | cons v vs =>
    have ahead : boundariesAhead d = crossings v 1 vs := by
      rw [boundariesAhead, hprev, hindex, hinput, hin]
      simp [crossings_cons, risesAt]
    rw [hin, crossings_cons] at cut
    split_ifs at cut with first
    · -- the first sample is the boundary of the first cycle: the second cycle's is the first one found
      obtain ⟨-, cut⟩ := List.cons_eq_cons.mp cut
      refine ⟨ts.dropLast, .inr rfl, ?_⟩
      rw [lengthsAhead_of_none hlast ahead]
      change crossings v 1 vs = _ at cut
      rw [cut]
      cases ts with
      | nil => exact .nil
      | cons t' ts =>
        rw [h.crossings_samplesOf_cons]
        exact h.steps_samplesOf t' ts _
    · refine ⟨(t :: ts).dropLast, .inl rfl, ?_⟩
      rw [lengthsAhead_of_none hlast ahead]
      change crossings v 1 vs = _ at cut
      rw [cut]
      exact h.steps_samplesOf t ts 0

end

end Sys2Proof.Machine
end

section
/-!
O60. The round trip of R421 for any cycle shape that meets the condition of `RoundTripCondition`, and the sine as one of
them.
-/

namespace Sys2Proof.Machine

/-- The lengths of R421 are positive, and so is the expected mark count at the start. -/
theorem countTargets_pos {c : Config} (valid : c.codecValid) {ms ss : List Nat} (hm : ∀ n ∈ ms, 0 < n)
    (hs : ∀ n ∈ ss, 0 < n) : ∀ x ∈ countTargets c ms ss, 0 < x := by
  obtain ⟨hrate, -, hfreq, -⟩ := valid
  have start : (0 : Rat) < c.sampleRate / c.markFreq := div_pos (by exact_mod_cast hrate) hfreq
  intro x hx
  rcases List.mem_cons.mp hx with rfl | hx
  · exact start
  split_ifs at hx
  · rcases List.mem_append.mp hx with hx | hx
    · obtain ⟨n, hn, rfl⟩ := List.mem_map.mp hx
      exact_mod_cast hm n hn
    · obtain ⟨n, hn, rfl⟩ := List.mem_map.mp hx
      have : (0 : Rat) < n := by exact_mod_cast hs n hn
      positivity
  · simp at hx

theorem Within.pos {xs : List Rat} (h : ∀ x ∈ xs, 0 < x) {q : Rat} (hq : Within xs q) : 0 < q := by
  obtain ⟨⟨lo, hlo, hle⟩, -⟩ := hq
  exact (h lo hlo).trans_le hle

theorem BoundaryAt.toneLengths_pos {c : Config} {cycle : Nat → List Int} {edge : Tone → Nat}
    (h : BoundaryAt c cycle edge) (t : Tone) : ∀ n ∈ toneLengths c edge t, 0 < n := by
  have := h.lt t
  intro n hn
  rw [toneLengths, ownedLengths] at hn
  simp only [List.mem_cons, List.not_mem_nil, or_false] at hn
  omega

/-- A value for each tone. -/
def byTone {α : Type} (mark space : α) : Tone → α
  | .mark => mark
  | .space => space

/-- The condition of R421, by tones. -/
theorem RoundTripCondition.byTones {c : Config} (valid : c.codecValid) (hphase : c.phase = .deg0)
    {cycle : Nat → List Int} (hlen : ∀ len, (cycle len).length = len) (h : RoundTripCondition c cycle) :
    ∃ edge, BoundaryAt c cycle edge ∧ TonesApart c (toneLengths c edge) := by
  obtain ⟨dm, ds, hm, hs, sep⟩ := h
  have cut : BoundaryAt c cycle (byTone dm ds) := by
    refine ⟨fun t => hlen _, fun before t => ?_⟩
    have mem : toneSamples c before ∈ [markSamples c, spaceSamples c] := by cases before <;> simp [toneSamples]
    cases t with
    | mark => exact hm _ mem
    | space => exact hs _ mem
  exact ⟨_, cut, by rw [hphase]; rfl,
    fun q hq => hq.pos (countTargets_pos valid (cut.toneLengths_pos .mark) (cut.toneLengths_pos .space)), sep⟩

theorem need_pos {c : Config} (valid : c.codecValid) (t : Tone) : 0 < need c t := by
  obtain ⟨-, -, -, hcycles, -⟩ := valid
  cases t <;> simp only [need] <;> omega

/-- A stream begins with a mark cycle and ends with one that no other tone follows; without one or both of these its
cycles are frames between two runs of marks. -/
theorem cyclesOf_streamBits {c : Config} (valid : c.codecValid) (hin : 1 ≤ leadBits c c.leadInSeconds)
    (hout : 1 ≤ leadBits c c.leadOutSeconds) (bytes : List Byte) :
    ∃ t ts p q, cyclesOf c (streamBits c bytes) = t :: ts ∧
      (t :: ts).dropLast = List.replicate (p + 1) .mark ++ (cyclesOf c (bytes.map frame).flatten ++
        List.replicate q .mark) ∧
      ts.dropLast = List.replicate p .mark ++ (cyclesOf c (bytes.map frame).flatten ++ List.replicate q .mark) := by
  obtain ⟨-, -, -, hcycles, -⟩ := valid
  obtain ⟨p, hp⟩ := Nat.exists_eq_add_of_le' (Nat.mul_pos hin (Nat.zero_lt_of_lt hcycles))
  obtain ⟨q, hq⟩ := Nat.exists_eq_add_of_le' (Nat.mul_pos hout (Nat.zero_lt_of_lt hcycles))
  have dropLast : ∀ k, (List.replicate k Tone.mark ++ (cyclesOf c (bytes.map frame).flatten ++
      List.replicate (q + 1) Tone.mark)).dropLast =
      List.replicate k .mark ++ (cyclesOf c (bytes.map frame).flatten ++ List.replicate q Tone.mark) := by
    intro k
    rw [List.replicate_succ', ← List.append_assoc, ← List.append_assoc, List.dropLast_concat, List.append_assoc]
  refine ⟨.mark, List.replicate p Tone.mark ++ (cyclesOf c (bytes.map frame).flatten ++
    List.replicate (q + 1) Tone.mark), p, q, ?_, dropLast (p + 1), dropLast p⟩
  rw [streamBits, cyclesOf_append, cyclesOf_append, cyclesOf_ones, cyclesOf_ones, hp, hq, List.append_assoc,
    List.replicate_succ]
  rfl

/-- A stream's samples are within the full scale if those of every cycle are. -/
theorem streamSamples_bounded {c : Config} {cycle : Nat → List Int} {a : Int}
    (h : ∀ len, ∀ v ∈ cycle len, |v| ≤ a) (bytes : List Byte) : ∀ v ∈ streamSamples c cycle bytes, |v| ≤ a := by
  intro v hv
  rw [streamSamples_eq] at hv
  obtain ⟨l, hl, hv⟩ := List.mem_flatten.mp hv
  obtain ⟨t, -, rfl⟩ := List.mem_map.mp hl
  exact h _ v hv

/-- A stream has at least one bit for every byte. -/
theorem length_le_stream (bytes : List Byte) (a b : Nat) : bytes.length ≤
    (List.replicate a true ++ ((bytes.map frame).flatten ++ List.replicate b true)).length := by
  have frames : (bytes.map frame).flatten.length = bytes.length * 11 := by
    simp [List.length_flatten, Function.comp_def, frame]
  simp only [List.length_append, List.length_replicate, frames]
  omega

/-- The round trip for any cycle shape within the full scale that meets the condition of R421. -/
theorem decodeTape_encodeWith {c : Config} {cycle : Nat → List Int} (valid : c.codecValid) (hphase : c.phase = .deg0)
    (hdepth : c.inBitDepth = c.bitDepth) (hchannels : c.inChannels = c.channels)
    (hin : 1 ≤ leadBits c c.leadInSeconds) (hout : 1 ≤ leadBits c c.leadOutSeconds)
    (hlen : ∀ len, (cycle len).length = len) (hbound : ∀ len, ∀ v ∈ cycle len, |v| ≤ amax c.bitDepth)
    (hcond : RoundTripCondition c cycle) (bytes : List Byte) :
    decodeTape c (encodeWith c cycle bytes) = bytes := by
  have ⟨_, hch, _⟩ := valid
  obtain ⟨edge, cut, apart⟩ := hcond.byTones valid hphase hlen
  obtain ⟨t, ts, p, q, stream, most, fewer⟩ := cyclesOf_streamBits valid hin hout bytes
  have samples := inputSamples_encodeWith hch hphase hdepth hchannels (streamSamples_bounded hbound bytes)
  have input : (startSession c (encodeWith c cycle bytes)).input = samplesOf c cycle (t :: ts) := by
    rw [← stream, ← streamSamples_eq]
    exact samples
  obtain ⟨heard, hheard, lengths⟩ := cut.lengthsAhead_start rfl rfl rfl input
  have hears : Hears c (toneLengths c edge) (startSession c (encodeWith c cycle bytes)) heard :=
    ⟨rfl, .of_mem List.mem_cons_self, lengths, rfl⟩
  have bits : ∃ a b, toneBits c .mark 0 heard =
      List.replicate a true ++ ((bytes.map frame).flatten ++ List.replicate b true) := by
    rcases hheard with rfl | rfl
    · rw [most]
      exact toneBits_stream (need_pos valid) bytes _ q
    · rw [fewer]
      exact toneBits_stream (need_pos valid) bytes p q
  obtain ⟨a, b, bits⟩ := bits
  have spells : Spells c (toneLengths c edge) (startSession c (encodeWith c cycle bytes)) _ := ⟨heard, hears, bits⟩
  refine spells.readBytes_eq apart (Nat.lt_succ_of_le ?_)
  calc bytes.length ≤ _ := length_le_stream bytes a b
    _ ≤ (inputSamples c (encodeWith c cycle bytes)).length := spells.length_le
    _ ≤ (encodeWith c cycle bytes).length := samples ▸ streamSamples_length_le hch cycle bytes

-- The sine (R404).

/-- A sine is at least its value at `y` between `y` and `π - y`. -/
theorem sin_le_sin_of_between {x y : ℝ} (hy : 0 ≤ y) (hlo : y ≤ x) (hhi : x ≤ Real.pi - y) :
    Real.sin y ≤ Real.sin x := by
  rcases le_total x (Real.pi / 2) with h | h
  · exact Real.sin_le_sin_of_le_of_le_pi_div_two (by linarith) h hlo
  · rw [← Real.sin_pi_sub x]
    exact Real.sin_le_sin_of_le_of_le_pi_div_two (by linarith) (by linarith) (by linarith)

theorem roundHalfAway_nonneg {r : ℝ} (h : 0 ≤ r) : 0 ≤ roundHalfAway r := by
  rw [← not_lt, roundHalfAway_neg_iff]
  linarith

/-- A number that does not round to 0 or below is at least 1/2. -/
theorem half_le_of_roundHalfAway {r : ℝ} (h : 1 ≤ roundHalfAway r) : 1 / 2 ≤ r := by
  unfold roundHalfAway at h
  split_ifs at h with h0
  · have := Int.le_floor.mp h
    push_cast at this
    linarith
  · have : 0 ≤ ⌊-r + 1 / 2⌋ := Int.floor_nonneg.mpr (by linarith)
    omega

/-- A sine sample is not negative in the first half of the cycle. -/
theorem sineSample_nonneg (a : Nat) {k len : Nat} (h : 2 * k ≤ len) :
    0 ≤ roundHalfAway (a * Real.sin (2 * Real.pi * k / len)) := by
  refine roundHalfAway_nonneg (mul_nonneg a.cast_nonneg (Real.sin_nonneg_of_nonneg_of_le_pi (by positivity) ?_))
  have : 2 * (k : ℝ) ≤ len := by exact_mod_cast h
  exact div_le_of_le_mul₀ len.cast_nonneg Real.pi_nonneg (by nlinarith [Real.pi_pos])

/-- The angle of a sample other than the first and the middle one keeps the distance of a space cycle's first angle from
0 and from π. -/
theorem sineAngle_between {j len m : Nat} (hlen : len = m ∨ len = 2 * m) (hj : 0 < j) (hj' : 2 * j < len) :
    2 * Real.pi / (2 * m : Nat) ≤ 2 * Real.pi * j / len ∧
      2 * Real.pi * j / len ≤ Real.pi - 2 * Real.pi / (2 * m : Nat) := by
  have hm : 0 < m := by omega
  have near : len ≤ 2 * m * j := by nlinarith [show len ≤ 2 * m by omega]
  have far : m * (2 * j) + len ≤ m * len := by
    rcases hlen with rfl | rfl
    · nlinarith
    · nlinarith [show j + 1 ≤ m by omega]
  have near' : (len : ℝ) ≤ 2 * m * j := by exact_mod_cast near
  have far' : (m : ℝ) * (2 * j) + len ≤ m * len := by exact_mod_cast far
  have hmr : (0 : ℝ) < m := by exact_mod_cast hm
  have hlr : (0 : ℝ) < len := by exact_mod_cast (by omega : 0 < len)
  have hpi := Real.pi_pos
  push_cast
  constructor
  · rw [div_le_div_iff₀ (by positivity) hlr]
    nlinarith
  · rw [mul_div_mul_left _ _ (two_ne_zero' ℝ), le_sub_iff_add_le, div_add_div _ _ hlr.ne' hmr.ne',
      div_le_iff₀ (by positivity)]
    nlinarith

/-- A sine sample is negative in the second half of a mark or a space cycle, if the first sample of a space cycle after
0 does not round to 0 (R421). -/
theorem sineSample_neg {a m : Nat} (hround : 1 ≤ roundHalfAway (a * Real.sin (2 * Real.pi / (2 * m : Nat))))
    {k len : Nat} (hlen : len = m ∨ len = 2 * m) (hk : len < 2 * k) (hk' : k < len) :
    roundHalfAway (a * Real.sin (2 * Real.pi * k / len)) < 0 := by
  obtain ⟨j, rfl⟩ := Nat.exists_eq_add_of_lt hk'
  have mirrored : Real.sin (2 * Real.pi * k / (k + j + 1 : Nat)) =
      -Real.sin (2 * Real.pi * (j + 1 : Nat) / (k + j + 1 : Nat)) := by
    rw [← Real.sin_two_pi_sub]
    congr 1
    push_cast
    field_simp
    ring
  obtain ⟨lo, hi⟩ := sineAngle_between hlen (Nat.succ_pos j) (by omega)
  have high := sin_le_sin_of_between (by positivity) lo hi
  have first := half_le_of_roundHalfAway hround
  rw [roundHalfAway_neg_iff, mirrored]
  have := mul_le_mul_of_nonneg_left high (Nat.cast_nonneg (α := ℝ) a)
  linarith

/-- Samples that are not negative have no boundary after one that is not negative. -/
theorem crossings_of_nonneg {u : Int} {xs : List Int} (hu : 0 ≤ u) (h : ∀ v ∈ xs, 0 ≤ v) (i : Nat) :
    crossings u i xs = [] := by
  induction xs generalizing u i with
  | nil => rfl
  | cons v vs ih =>
    rw [crossings_cons, ih (h v List.mem_cons_self) fun w hw => h w (List.mem_cons_of_mem v hw)]
    simp [risesAt, hu.not_gt]

/-- Negative samples have no boundary. -/
theorem crossings_of_neg {xs : List Int} (h : ∀ v ∈ xs, v < 0) (u : Int) (i : Nat) : crossings u i xs = [] := by
  induction xs generalizing u i with
  | nil => rfl
  | cons v vs ih =>
    rw [crossings_cons, ih fun w hw => h w (List.mem_cons_of_mem v hw)]
    simp [risesAt, (h v List.mem_cons_self).not_ge]

/-- Samples of which the first ones are not negative and the others are have, after a negative sample, one boundary: at
the first. -/
theorem crossings_high_low {u v : Int} {high low : List Int} (hu : u < 0) (hv : 0 ≤ v) (hh : ∀ w ∈ high, 0 ≤ w)
    (hl : ∀ w ∈ low, w < 0) : crossings u 0 (v :: (high ++ low)) = [0] := by
  rw [crossings_cons, crossings_append, crossings_of_nonneg hv hh, crossings_of_neg hl]
  simp [risesAt, hu, hv]

section
variable {a m : Nat} (hround : 1 ≤ roundHalfAway (a * Real.sin (2 * Real.pi / (2 * m : Nat)))) (hm : 4 ≤ m)
  {len : Nat} (hlen : len = m ∨ len = 2 * m)
include hround hm hlen

/-- The last sample of a sine cycle is negative. -/
theorem lastSample_sineCycle_neg : lastSample (sineCycle a len) < 0 := by
  obtain ⟨n, rfl⟩ := Nat.exists_eq_add_of_lt (show 2 < len by omega)
  simp only [lastSample, sineCycle, List.getLast?_map, List.getLast?_range]
  simpa using sineSample_neg hround hlen (k := 2 + n) (by omega) (by omega)

/-- A sine cycle has one boundary after a negative sample, at its first sample (R421). -/
theorem crossings_sineCycle {u : Int} (hu : u < 0) : crossings u 0 (sineCycle a len) = [0] := by
  obtain ⟨low, hlow⟩ := Nat.exists_eq_add_of_le' (show len / 2 + 1 ≤ len by omega)
  have split : List.range len = 0 :: ((List.range (len / 2)).map Nat.succ ++
      (List.range low).map (len / 2 + 1 + ·)) := by
    conv_lhs => rw [hlow, Nat.add_comm, List.range_add, List.range_succ_eq_map]
    rfl
  rw [sineCycle, split, List.map_cons, List.map_append]
  refine crossings_high_low hu (sineSample_nonneg a (by omega)) ?_ ?_
  · simp only [List.map_map, List.mem_map, List.mem_range]
    rintro _ ⟨k, hk, rfl⟩
    exact sineSample_nonneg a (by simp only [Nat.succ_eq_add_one]; omega)
  · simp only [List.map_map, List.mem_map, List.mem_range]
    rintro _ ⟨k, hk, rfl⟩
    exact sineSample_neg hround hlen (show len < 2 * (len / 2 + 1 + k) by omega) (show len / 2 + 1 + k < len by omega)

end

/-- A mark cycle's samples are within 1/2 of the expected mark count (R401). -/
theorem markSamples_near {c : Config} (valid : c.codecValid) :
    |(markSamples c : Rat) - c.sampleRate / c.markFreq| ≤ 1 / 2 := by
  obtain ⟨hrate, -, hfreq, -⟩ := valid
  have hpos : (0 : Rat) < c.sampleRate / c.markFreq := div_pos (by exact_mod_cast hrate) hfreq
  have nonneg : 0 ≤ roundHalfUp ((c.sampleRate : Rat) / c.markFreq) := Rat.le_floor_iff.mpr (by push_cast; linarith)
  have cast : (markSamples c : Rat) = (roundHalfUp ((c.sampleRate : Rat) / c.markFreq) : Int) := by
    rw [markSamples]
    exact_mod_cast Int.toNat_of_nonneg nonneg
  rw [cast, roundHalfUp, abs_le]
  have below : ((c.sampleRate / c.markFreq + 1 / 2).floor : Rat) ≤ c.sampleRate / c.markFreq + 1 / 2 := Int.floor_le _
  have above : c.sampleRate / c.markFreq + 1 / 2 < ((c.sampleRate / c.markFreq + 1 / 2).floor : Rat) + 1 :=
    Int.lt_floor_add_one _
  constructor <;> linarith

/-- The rendered lengths are told apart at every expected mark count within 1/2 of a mark cycle (R421). -/
theorem separates_rendered {m : Nat} (hm : 4 ≤ m) {q : Rat} (lo : (m : Rat) - 1 / 2 ≤ q) (hi : q ≤ (m : Rat) + 1 / 2) :
    Separates (ownedLengths m 0 0) (ownedLengths (2 * m) 0 0) q := by
  have hmr : (4 : Rat) ≤ m := by exact_mod_cast hm
  constructor
  · intro n hn
    obtain rfl : n = m := by simpa [ownedLengths] using hn
    exact .inl (by linarith)
  · intro n hn
    obtain rfl : n = 2 * m := by simpa [ownedLengths] using hn
    push_cast
    constructor <;> linarith

/-- The sine meets the condition of R421: every boundary is the start of a cycle, so the lengths are those rendered. -/
theorem sineCycle_roundTripCondition {c : Config} (valid : c.codecValid) (hm : 4 ≤ markSamples c)
    (hround : 1 ≤ roundHalfAway (amax c.bitDepth * Real.sin (2 * Real.pi / spaceSamples c))) :
    RoundTripCondition c (sineCycle (amax c.bitDepth)) := by
  have tone : ∀ len ∈ [markSamples c, spaceSamples c], len = markSamples c ∨ len = 2 * markSamples c := by
    simp [spaceSamples]
  have one : ∀ len ∈ [markSamples c, spaceSamples c], OneBoundary c (sineCycle (amax c.bitDepth)) len 0 :=
    fun len hl before hb =>
      crossings_sineCycle hround hm (tone len hl) (lastSample_sineCycle_neg hround hm (tone before hb))
  refine ⟨0, 0, one _ (by simp), one _ (by simp), fun q hq => ?_⟩
  obtain ⟨below, above⟩ := abs_le.mp (markSamples_near valid)
  have targets : ∀ x ∈ countTargets c (ownedLengths (markSamples c) 0 0) (ownedLengths (spaceSamples c) 0 0),
      x = c.sampleRate / c.markFreq ∨ x = markSamples c := by
    intro x hx
    rcases List.mem_cons.mp hx with rfl | hx
    · exact .inl rfl
    split_ifs at hx
    · exact .inr (by simpa [ownedLengths, spaceSamples] using hx)
    · simp at hx
  have lo : (markSamples c : Rat) - 1 / 2 ≤ q := hq.le fun x hx => by rcases targets x hx with rfl | rfl <;> linarith
  have hi : q ≤ (markSamples c : Rat) + 1 / 2 := hq.ge fun x hx => by rcases targets x hx with rfl | rfl <;> linarith
  exact separates_rendered hm lo hi

/-- The sine keeps to the full scale. -/
theorem sineCycle_bounded (a len : Nat) : ∀ v ∈ sineCycle a len, |v| ≤ a := by
  intro v hv
  obtain ⟨k, -, rfl⟩ := List.mem_map.mp hv
  refine roundHalfAway_abs_le ?_
  rw [abs_mul, Nat.abs_cast]
  exact mul_le_of_le_one_right a.cast_nonneg (Real.abs_sin_le_one _)

/-- So does a hardware shape as R405 asks for. -/
theorem hardwareCycle_bounded {wave : ℝ → ℝ} (h : HardwareShape wave) (a len : Nat) :
    ∀ v ∈ hardwareCycle wave a len, |v| ≤ a := by
  intro v hv
  obtain ⟨k, hk, rfl⟩ := List.mem_map.mp hv
  have hlt : (k : ℝ) < len := by exact_mod_cast List.mem_range.mp hk
  have pos : (0 : ℝ) < len := k.cast_nonneg.trans_lt hlt
  refine roundHalfAway_abs_le ?_
  rw [abs_mul, Nat.abs_cast]
  exact mul_le_of_le_one_right a.cast_nonneg (h _ (by positivity) ((div_lt_one pos).mpr hlt))

/-- Settles O60: both waveforms keep to the full scale and meet the condition of R421, the sine by its signs. -/
theorem tapeRoundTrip : Obligations.TapeRoundTrip := by
  intro c wave bytes valid hphase hdepth hchannels hin hout
  refine ⟨fun hwave hm hround => ?sine, fun hwave hshape hcond => ?hardware⟩ <;>
    simp only [encodeTape, toneCycle, hwave] at *
  case sine =>
    exact decodeTape_encodeWith valid hphase hdepth hchannels hin hout (sineCycle_length _) (sineCycle_bounded _)
      (sineCycle_roundTripCondition valid hm hround) bytes
  case hardware =>
    exact decodeTape_encodeWith valid hphase hdepth hchannels hin hout (hardwareCycle_length wave _)
      (hardwareCycle_bounded hshape _) hcond bytes

end Sys2Proof.Machine
end

section
/-!
O52, O53. The whole machine: the decode session keeps the ratio of its expected counts whatever its input
(48_tape_codec.md R414, R416), so the host's moves keep the invariant too, and no move of an agent ends the run.
-/

namespace Sys2Proof.Machine

-- The decode session.

/-- The ratio of the expected counts (R414, R416). -/
def Session.inRatio (d : Session) : Prop := d.countLo = 2 * d.countHi

theorem startSession_inRatio (c : Config) (stream : List Byte) : (startSession c stream).inRatio := rfl

theorem endSession_inRatio {d : Session} (h : d.inRatio) : (endSession d).inRatio := h

theorem SamplesRead.inRatio {d d' : Session} (k : SamplesRead d d') (h : d.inRatio) : d'.inRatio := by
  rw [Session.inRatio, k.countLo, k.countHi]
  exact h

theorem adapt_inRatio {d : Session} (h : d.inRatio) (adaptive : Bool) (n : Nat) : (adapt adaptive d n).inRatio := by
  obtain ⟨q, e⟩ := adapt_eq_expect h adaptive n
  rw [e]
  rfl

theorem runCycle_inRatio {d : Session} (h : d.inRatio) (c : Config) (t : Tone) : (runCycle c t d).2.inRatio := by
  unfold runCycle
  dsimp only
  split_ifs <;> exact h

section
variable (c : Config) {d : Session} (h : d.inRatio)
include h

theorem nextBitWithin_inRatio (k : Nat) : (nextBitWithin c k d).2.inRatio := by
  induction k generalizing d with
  | zero => exact h
  | succ k ih =>
    have read := (nextCycle_samplesRead c d).inRatio h
    rw [nextBitWithin]
    rcases hn : nextCycle c d with ⟨_ | n, d'⟩ <;> rw [hn] at read
    · exact read
    · have counted := runCycle_inRatio (adapt_inRatio read c.adaptive n) c (classify d' n)
      dsimp only
      rcases hr : runCycle c (classify d' n) (adapt c.adaptive d' n) with ⟨_ | b, d''⟩ <;> rw [hr] at counted
      · exact ih counted
      · exact counted

theorem nextBit_inRatio : (nextBit c d).2.inRatio := nextBitWithin_inRatio c h _

theorem seekStart_inRatio (k : Nat) : (seekStart c k d).2.inRatio := by
  induction k generalizing d with
  | zero => exact h
  | succ k ih =>
    have bit := nextBit_inRatio c h
    rw [seekStart]
    rcases hb : nextBit c d with ⟨_ | _ | _, d'⟩ <;> rw [hb] at bit
    · exact bit
    · exact bit
    · exact ih bit

theorem dataBits_inRatio (k i : Nat) (b : Byte) : (dataBits c k i b d).2.inRatio := by
  induction k generalizing d i b with
  | zero => exact h
  | succ k ih =>
    have bit := nextBit_inRatio c h
    rw [dataBits]
    rcases hb : nextBit c d with ⟨_ | x, d'⟩ <;> rw [hb] at bit
    · exact bit
    · exact ih bit _ _

theorem stopBits_inRatio (k : Nat) : (stopBits c k d).inRatio := by
  induction k generalizing d with
  | zero => exact h
  | succ k ih =>
    have bit := nextBit_inRatio c h
    rw [stopBits]
    rcases hb : nextBit c d with ⟨_ | x, d'⟩ <;> rw [hb] at bit
    · exact bit
    · exact ih bit

theorem nextByte_inRatio : (nextByte c d).2.inRatio := by
  have start := seekStart_inRatio c h (d.input.length + 1)
  unfold nextByte
  split_ifs
  · exact h
  rcases hs : seekStart c (d.input.length + 1) d with ⟨_ | _, d'⟩ <;> rw [hs] at start
  · exact endSession_inRatio start
  · have data := dataBits_inRatio c start 8 0 0x00
    dsimp only
    rcases hd : dataBits c 8 0 0x00 d' with ⟨_ | b, d''⟩ <;> rw [hd] at data
    · exact endSession_inRatio data
    · exact stopBits_inRatio c data 2

end

-- The moves of the agents.

section
variable {s : State} (h : s.Inv)
include h

theorem State.Inv.setTape {d : Session} (hd : d.inRatio) : (s.setTape d).Inv where
  memWf := h.memWf
  memMapped := h.memMapped
  bit5 := h.bit5
  acia := h.acia
  tapeRatio := hd

/-- What changes the latches, `halted`, the stop request, the host's settings or the events alone. -/
theorem State.Inv.of_same {t : State} (mem : t.mem = s.mem) (acia : t.acia = s.acia) (tape : t.tape = s.tape)
    (cfg : t.cfg = s.cfg) (p : t.p = s.p) : t.Inv :=
  h.of_registersOnly ⟨mem, acia, tape, cfg, by simp [p]⟩

theorem State.Inv.hostAct (op : HostOp) : (hostAct op s).Inv := by
  cases op with
  | raiseIrq =>
    change (Machine.raiseIrq s).Inv
    unfold Machine.raiseIrq
    split_ifs
    · exact h
    · exact h.of_same rfl rfl rfl rfl rfl
  | attachTxPeer | detachTxPeer | attachRxPeer | detachRxPeer => exact h.setAcia h.acia
  | tapeStart stream => exact h.setTape (startSession_inRatio s.cfg stream)
  | tapeRead => exact (h.setTape (nextByte_inRatio s.cfg h.tapeRatio)).of_same rfl rfl rfl rfl rfl
  | raiseReset | raiseNmi | wake | stop | setClockMHz | setTraceSink => exact h.of_same rfl rfl rfl rfl rfl

theorem State.Inv.workerAct (m : WorkerMove) : (workerAct m s).Inv :=
  (h.setAcia (consistent_workerStep m (w := (s.acia, s.events)) h.acia)).of_same rfl rfl rfl rfl rfl

theorem State.Inv.act {t : State} {m : Move} (k : act m s = .next t) : t.Inv := by
  cases m with
  | cpu => exact stepKeepsInv s t h k
  | worker m =>
    cases k
    exact h.workerAct m
  | host op =>
    cases k
    exact h.hostAct op

end

/-- No move changes the configuration (10_state.md R37). -/
theorem act_cfg {m : Move} {s t : State} (k : act m s = .next t) : t.cfg = s.cfg := by
  cases m with
  | cpu => exact (step_busRun k).keeps (P := fun u => u.cfg = s.cfg) (fun _ _ k h => k.cfg.trans h) rfl
  | worker m =>
    cases k
    rfl
  | host op =>
    cases k
    exact hostAct_cfg op s

/-- Settles O52, by induction on the run. -/
theorem everyRunKeepsInv : Obligations.EveryRunKeepsInv := by
  intro s t h run
  induction run with
  | refl => exact ⟨h, rfl⟩
  | move m _ k ih => exact ⟨ih.1.act k, (act_cfg k).trans ih.2⟩

-- Every move is answered (60_exceptions.md R450).

/-- Each instruction is answered by the form its meaning has. -/
theorem exec_answers (i : Instr) (s : State) : ∃ t, exec i s = .next t := by
  cases i with
  | jmp target => cases target <;> exact ⟨_, rfl⟩
  | _ => exact ⟨_, rfl⟩

theorem step_answers (s : State) : ∃ t, step s = .next t := by
  rcases step_cases s with ⟨-, e⟩ | ⟨-, e⟩ <;> rw [e]
  · exact ⟨_, rfl⟩
  · exact exec_answers _ _

/-- Settles O53: the CPU's move is a step, the worker's and the host's have no other answer. -/
theorem nothingStopsTheMachine : Obligations.NothingStopsTheMachine := by
  refine ⟨exec_answers, step_answers, fun m s => ?_⟩
  cases m with
  | cpu => exact step_answers s
  | worker m => exact ⟨_, rfl⟩
  | host op => exact ⟨_, rfl⟩

end Sys2Proof.Machine
end

section
/-!
O2, O41, O42, O47. Phase (a) of an iteration and the fetch after it (60_exceptions.md R455, R456), a CPU that is not
awake (R468, R469), and the latches of the raise operations (R452 to R454).
-/

namespace Sys2Proof.Machine

/-- The bytes at pc decode to the instruction of a fetch, which reads as many of them as it has. -/
theorem fetch_decode (v : State) :
    let r0 := memRead .instruction v.pc v
    let r1 := memRead .instruction (v.pc + 1) r0.2
    let r2 := memRead .instruction (v.pc + 2) r1.2
    (∃ rest, decode v.cfg [r0.1, r1.1, r2.1] = .ok ((fetch v).1, rest)) ∧
      (fetch v).2 = noteTrace
        (if (fetch v).1.length = 1 then r0.2 else if (fetch v).1.length = 2 then r1.2 else r2.2) := by
  intro r0 r1 r2
  rcases fetch_cases v with ⟨hl, hf⟩ | ⟨hl, hf⟩ | ⟨hl, hf⟩ <;> rw [hf, decodeOp_length, hl]
  · exact ⟨⟨_, decode_operands (bs := []) hl [r1.1, r2.1]⟩, rfl⟩
  · exact ⟨⟨_, decode_operands (bs := [r1.1]) hl [r2.1]⟩, rfl⟩
  · exact ⟨⟨_, decode_operands (bs := [r1.1, r2.1]) hl []⟩, rfl⟩

/-- Settles O2: an awake CPU's step is the fetch after phase (a), and the run of what it fetched. -/
theorem stepRunsTheDecodedInstruction : Obligations.StepRunsTheDecodedInstruction := by
  intro s awake v r0 r1 r2
  obtain ⟨⟨rest, hdecode⟩, hread⟩ := fetch_decode v
  have hstep : step s = exec (fetch v).1 (fetch v).2 := by simp only [step, awake, Bool.false_eq_true, if_false, v]
  exact ⟨(fetch v).1, rest, (fetch v).2, hdecode, hread, fetch_devices v, hstep⟩

/-- Settles O41: an idle step is a gap. -/
theorem idleCpuOnlyWaits : Obligations.IdleCpuOnlyWaits := by
  intro s h
  have idle : s.idle = true := by simpa [State.idle] using h
  exact ⟨gap s, by simp [step, idle], ⟨Config.workerMoves s.tick, rfl⟩, gap_eq s⟩

@[simp] theorem serviceReset_resetLatch (s : State) : (serviceReset s).resetLatch = false := by simp [serviceReset]

@[simp] theorem serviceReset_nmiLatch (s : State) : (serviceReset s).nmiLatch = false := by simp [serviceReset]

@[simp] theorem serviceReset_irqLatch (s : State) : (serviceReset s).irqLatch = false := by simp [serviceReset]

theorem serviceSignals_reset {s : State} (hr : s.resetLatch = true) : serviceSignals s = serviceReset s := if_pos hr

theorem serviceSignals_nmi {s : State} (hr : s.resetLatch = false) (hn : s.nmiLatch = true) :
    serviceSignals s = serviceNmi s := by simp [serviceSignals, hr, hn]

theorem serviceSignals_irq {s : State} (hr : s.resetLatch = false) (hn : s.nmiLatch = false)
    (hi : s.irqLatch = true) : serviceSignals s = serviceIrq s := by simp [serviceSignals, hr, hn, hi]

theorem serviceSignals_none {s : State} (hr : s.resetLatch = false) (hn : s.nmiLatch = false)
    (hi : s.irqLatch = false) : serviceSignals s = s := by simp [serviceSignals, hr, hn, hi]

/-- What phase (a) leaves latched: an IRQ that an NMI came before (R455, R457 to R459). -/
theorem serviceSignals_latches (s : State) :
    (serviceSignals s).resetLatch = false ∧ (serviceSignals s).nmiLatch = false ∧
      (serviceSignals s).irqLatch = (!s.resetLatch && s.nmiLatch && s.irqLatch) := by
  cases hr : s.resetLatch with
  | true => simp [serviceSignals_reset hr]
  | false =>
    cases hn : s.nmiLatch with
    | true => simp [serviceSignals_nmi hr hn, hr]
    | false =>
      cases hi : s.irqLatch with
      | true => simp [serviceSignals_irq hr hn hi, hr, hn]
      | false => simp [serviceSignals_none hr hn hi, hr, hn, hi]

/-- Settles O42, by the latches in the order of their priority. -/
theorem signalPriority : Obligations.SignalPriority :=
  ⟨fun s => ⟨serviceSignals_reset, serviceSignals_nmi, serviceSignals_irq, serviceSignals_none,
    serviceSignals_latches s⟩, fun _ _ => rfl⟩

/-- An IRQ is lost where I is set, and else latched once (R454). -/
theorem raiseIrq_raiseIrq (s : State) : raiseIrq (raiseIrq s) = raiseIrq s := by
  by_cases hi : s.flag .i = true
  · simp [raiseIrq, hi]
  · have latched : raiseIrq s = s.setLatches s.resetLatch s.nmiLatch true := if_neg hi
    rw [latched]
    exact if_neg hi

/-- Settles O47: each operation writes one latch, and a second IRQ follows the first by the same I. -/
theorem raiseOperations : Obligations.RaiseOperations :=
  fun s => ⟨rfl, rfl, rfl, rfl, rfl, raiseIrq_raiseIrq s⟩

end Sys2Proof.Machine
end

section
/-!
O43 to O46. The three services (60_exceptions.md R457 to R459), and RTI after each way an interrupt is entered (R462).
-/

namespace Sys2Proof.Machine

-- The RESET service.

/-- The ACIA of one state comes from that of another by steps of the worker alone. -/
def WorkerMoved (d d' : Acia) : Prop := ∀ es, ∃ ms, d' = (workerRun ms (d, es)).1

theorem WorkerMoved.trans {d d' d'' : Acia} (h : WorkerMoved d d') (k : WorkerMoved d' d'') : WorkerMoved d d'' := by
  intro es
  obtain ⟨ms, rfl⟩ := h es
  obtain ⟨ms', rfl⟩ := k (workerRun ms (d, es)).2
  exact ⟨ms ++ ms', by rw [workerRun_append]⟩

/-- A read of the RESET service does not touch the ACIA itself (47_acia.md R382). -/
theorem memRead_reset_workerMoved (a : Addr) (s : State) : WorkerMoved s.acia (memRead .reset a s).2.acia :=
  fun es => ⟨Config.workerMoves s.tick, (memRead_reset_acia a s).trans (workerRun_acia_congr _ _ _ es)⟩

/-- Settles O43: the registers are loaded before the two vector reads, which move the worker alone. -/
theorem Signals.serviceReset : Obligations.ServiceReset := by
  intro s lo hi t
  refine ⟨rfl, rfl, rfl, rfl, rfl, toNat_word _ _, rfl, ?world, ?worker⟩
  case world => exact ⟨by constructor <;> rfl, rfl, fun _ => rfl, rfl, rfl, rfl⟩
  case worker =>
    have low := memRead_reset_workerMoved 0xFFFC { s with resetLatch := false, nmiLatch := false, irqLatch := false }
    exact (low.trans (memRead_reset_workerMoved 0xFFFD lo.2)) s.events

-- The NMI and the IRQ service.

/-- P after an interrupt: I set (R458, R459). -/
theorem setFlag_i (p : Byte) : setFlag p .i true = p ||| 0x04 := rfl

/-- P with B cleared (R459). -/
theorem setFlag_b_false (p : Byte) : setFlag p .b false = p &&& 0xEF := rfl

theorem serviceNmi_p (s : State) : (serviceNmi s).p = s.p ||| 0x04 := by simp [serviceNmi, setFlag?, setFlag_i]

theorem serviceIrq_p (s : State) : (serviceIrq s).p = (s.p &&& 0xEF) ||| 0x04 := by
  simp [serviceIrq, setFlag?, setFlag_i, setFlag_b_false]

/-- pc after a service: the word at the vector, read after the pushes (20_memory.md R67). -/
theorem enterInterrupt_pc (w : Accessor) (ret : Addr) (brk : Option Bool) (vec : Addr) (s : State) :
    let lo := memRead w vec (saveContext ret brk s)
    let hi := memRead w (vec + 1) lo.2
    (enterInterrupt w ret brk vec s).pc.toNat = 256 * hi.1.toNat + lo.1.toNat := toNat_word _ _

/-- Settles O44: an interrupt taken with B as it stands, and the cycles of a service. -/
theorem Signals.serviceNmi : Obligations.ServiceNmi := by
  intro s cleared lo hi t
  have pushes := enterInterrupt_pushes .service s.pc none nmiVector cleared
  refine ⟨serviceNmi_a s, serviceNmi_x s, serviceNmi_y s, serviceNmi_p s,
    enterInterrupt_pc .service s.pc none nmiVector cleared, serviceNmi_cycles s, ?_⟩
  exact pushes.congr (by constructor <;> rfl) rfl rfl rfl rfl rfl rfl

/-- Settles O45: an interrupt taken with B cleared, and the cycles of a service. -/
theorem Signals.serviceIrq : Obligations.ServiceIrq := by
  intro s cleared lo hi t
  have pushes := enterInterrupt_pushes .service s.pc (some false) irqVector cleared
  refine ⟨serviceIrq_a s, serviceIrq_x s, serviceIrq_y s, serviceIrq_p s,
    enterInterrupt_pc .service s.pc (some false) irqVector cleared, serviceIrq_cycles s, ?_⟩
  exact pushes.congr (by constructor <;> rfl) rfl rfl rfl rfl rfl rfl

-- RTI after each.

/-- An RTI takes back what an entry pushed: pc, P with bit 5 set, and S; A, X and Y stand (R302, R462). -/
theorem exec_rti_of_pushes {ret : Addr} {P : Byte} {s u t : State}
    (h : PushesFrom [highByte ret, lowByte ret, P] s u t) (hr : s.kindAt 0x0100 = some .ram) (h5 : P ||| 0x20 = P) :
    ∃ r, exec .rti t = .next r ∧ r.pc = ret ∧ r.p = P ∧ r.a = t.a ∧ r.x = t.x ∧ r.y = t.y ∧ r.sp = s.sp := by
  obtain ⟨hpc, hp, hsp⟩ := returnFromInterrupt_of_pushes h hr
  exact ⟨_, rfl, hpc, hp.trans h5, by simp, by simp, by simp, hsp⟩

/-- Settles O46, by what each entry pushes. -/
theorem rtiReturnsFromEachEntry : Obligations.RtiReturnsFromEachEntry := by
  intro s hr
  refine ⟨?nmi, ?irq, ?brk⟩
  case nmi =>
    obtain ⟨ha, hx, hy, -, -, -, pushes⟩ := Signals.serviceNmi s
    obtain ⟨t, ht, hpc, hp, ta, tx, ty, hsp⟩ := exec_rti_of_pushes pushes hr (BitVec.or_assoc s.p 0x20 0x20)
    exact ⟨t, ht, hpc, hp, ta.trans ha, tx.trans hx, ty.trans hy, hsp⟩
  case irq =>
    obtain ⟨ha, hx, hy, -, -, -, pushes⟩ := Signals.serviceIrq s
    obtain ⟨t, ht, hpc, hp, ta, tx, ty, hsp⟩ :=
      exec_rti_of_pushes pushes hr (BitVec.or_assoc (s.p &&& 0xEF) 0x20 0x20)
    exact ⟨t, ht, hpc, hp, ta.trans ha, tx.trans hx, ty.trans hy, hsp⟩
  case brk =>
    obtain ⟨u, hu, ha, hx, hy, -, -, -, pushes⟩ := brkEntersTheIrqHandler s
    obtain ⟨t, ht, hpc, hp, ta, tx, ty, hsp⟩ := exec_rti_of_pushes pushes hr (BitVec.or_assoc s.p 0x30 0x20)
    exact ⟨u, t, hu, ht, hpc, hp, ta.trans ha, tx.trans hx, ty.trans hy, hsp⟩

end Sys2Proof.Machine
end

section
/-!
O49, O57. INC on the ACIA's status address (70_reset_and_hazards.md R499), and the configuration faults (R497).
-/

namespace Sys2Proof.Machine

/-- A status read changes nothing after the gap before it (47_acia.md R362). -/
theorem memRead_acia_status {s : State} {w : Addr} (hk : s.kindAt w = some .acia) (heven : s.offsetAt w % 2 = 0)
    (acc : Accessor) : memRead acc w s = ((gap s).acia.status, gap s) := by
  rw [memRead_acia hk, Acia.peek_even heven, Acia.afterRead_even heven]
  rfl

/-- The status 0x02: ready to transmit, nothing received (R361). -/
theorem Acia.status_idle {d : Acia} (ht : d.tdre = true) (hr : d.rdrf = false) : d.status = 0x02 := by
  simp [Acia.status, ht, hr]

/-- Settles O49: INC reads the status 0x02 and writes 0x03 back to the same address. -/
theorem incOnStatusIsMasterReset : Obligations.IncOnStatusIsMasterReset := by
  intro w s hk heven htdre hrdrf
  obtain ⟨t, ht, -, -, -, -, -, -, stores⟩ := (incrementAndDecrementMemory (.abs w) s).1
  have status : memRead .instruction w s = (0x02, gap s) := by
    rw [memRead_acia_status hk heven, Acia.status_idle htdre hrdrf]
  change StoresAt w ((memRead .instruction w s).1 + 1) s (memRead .instruction w s).2 t at stores
  rw [status] at stores
  refine ⟨t, ht, ?acia, fun b => ?memory⟩
  case acia =>
    have hk' : (gap (gap s)).kindAt w = some .acia := (kindAt_congr (gap_cfg s) w).trans hk
    have heven' : (gap (gap s)).offsetAt w % 2 = 0 := by rwa [offsetAt_congr (gap_cfg _), offsetAt_congr (gap_cfg s)]
    rw [stores.acia, aciaAfterWrite, hk']
    exact Acia.afterWrite_even heven' _
  case memory =>
    by_cases hb : b = w
    · rw [hb, stores.stored, if_neg (by simp [hk])]
    · exact stores.others b hb

-- Configuration faults.

/-- What R497 asks of a region and its contents. -/
def RegionSound (r : Region) (bytes : Contents) : Prop :=
  r.baseAddr % 256 = 0 ∧ 1 ≤ r.blockCount ∧ r.baseAddr / 256 + r.blockCount ≤ 256 ∧
    (r.kind = .rom → ∃ image, bytes = some image ∧ image.length = 256 * r.blockCount)

theorem spanFault_eq_none_iff (r : Region) : regionFault.spanFault r = none ↔
    r.baseAddr % 256 = 0 ∧ 1 ≤ r.blockCount ∧ r.baseAddr / 256 + r.blockCount ≤ 256 := by
  unfold regionFault.spanFault
  split_ifs <;> simp only [baseBlock, true_iff, false_iff] at * <;> omega

/-- Only a ROM's contents can be at fault. -/
theorem regionFault_of_not_rom {r : Region} (h : r.kind ≠ .rom) (bytes : Contents) :
    regionFault r bytes = regionFault.spanFault r := by
  unfold regionFault
  split
  next hrom => exact absurd hrom h
  next hrom => exact absurd hrom h
  next => rfl

theorem regionFault_eq_none_iff (r : Region) (bytes : Contents) :
    regionFault r bytes = none ↔ RegionSound r bytes := by
  by_cases hrom : r.kind = .rom
  · cases bytes with
    | none => simp [regionFault, RegionSound, hrom]
    | some image =>
      by_cases hlen : image.length = 256 * r.blockCount <;>
        simp [regionFault, RegionSound, hrom, hlen, spanFault_eq_none_iff]
  · simp [regionFault_of_not_rom hrom, RegionSound, hrom, spanFault_eq_none_iff]

/-- The regions have no fault exactly where each is sound with the contents at its place. -/
theorem regionsFault_eq_none_iff (rs : List Region) (cs : List Contents) : regionsFault rs cs = none ↔
    ∀ (k : Nat) (r : Region), rs[k]? = some r → RegionSound r cs[k]?.join := by
  induction rs generalizing cs with
  | nil => simp [regionsFault]
  | cons r rs ih =>
    have first : regionsFault (r :: rs) cs = none ↔
        regionFault r cs.head?.join = none ∧ regionsFault rs cs.tail = none := by
      rw [regionsFault]
      cases regionFault r cs.head?.join <;> simp
    rw [first, regionFault_eq_none_iff, ih]
    constructor
    · rintro ⟨hr, hrs⟩ k r' hk
      cases k with
      | zero =>
        cases hk
        rw [← List.head?_eq_getElem?]
        exact hr
      | succ k =>
        rw [← List.getElem?_tail]
        exact hrs k r' hk
    · intro h
      refine ⟨?_, fun k r' hk => ?_⟩
      · rw [List.head?_eq_getElem?]
        exact h 0 r rfl
      · rw [List.getElem?_tail]
        exact h (k + 1) r' hk

theorem configFault_eq_none_iff (c : Config) (contents : List Contents) : configFault c contents = none ↔
    regionsFault c.regionTable contents = none ∧
      (c.regionTable.filter fun (r : Region) => r.kind = .acia).length = 1 := by
  unfold configFault
  cases regionsFault c.regionTable contents <;> simp

/-- A machine is built where the configuration has no fault (R490). -/
theorem powerOn_ok_iff (c : Config) (contents : List Contents) :
    (∃ s, powerOn c contents = .ok s) ↔ configFault c contents = none := by
  unfold powerOn
  cases configFault c contents <;> simp

/-- Settles O57: the faults of R497, region by region, then the count of ACIA regions. -/
theorem configurationFaults : Obligations.ConfigurationFaults := by
  intro c contents
  rw [powerOn_ok_iff, configFault_eq_none_iff, regionsFault_eq_none_iff]
  simp only [RegionSound, Option.join_eq_some_iff]

end Sys2Proof.Machine
end
